-- ==== Sys2Proof/Word.lean ====
section
/-! DEFINITION. The widths of the block's words (spec/10_state.md R22 to R26, spec/30_encoding.md R91). -/

namespace Sys2Proof

/-- A byte, 8 bits (spec/00_scope.md R10). -/
abbrev Byte := BitVec 8

/-- The Reading Cache's word, 16 bits unsigned (spec/10_state.md R24). -/
abbrev Reading := BitVec 16

/-- The fill count `length`, a 5-bit unsigned register (spec/10_state.md R23). -/
abbrev FillCount := BitVec 5

/-- A whole frame as one 160-bit number, offset 0 in its most significant byte (spec/30_encoding.md R91). -/
abbrev FrameBits := BitVec 160

/-- One line of the text channel, its characters in order (spec/30_encoding.md R105). -/
abbrev Line := List Byte

end Sys2Proof
end

