-- ==== Sys2Proof/Syntax.lean ====
section
/-! DEFINITION. The instructions: one constructor for each row of spec/opcode_table.json. The block has no stored
program; its "instructions" are the frame pattern, the dispatcher's steps, the operations they issue, the request kinds,
the text commands and the boundary moves (spec/INDEX.md). -/

namespace Sys2Proof

/-- The five request kinds (spec/30_encoding.md R104). -/
inductive Kind where
  | data | status | help | page | value
deriving DecidableEq, Repr

/-- The two routes of the HTTP-style surface (spec/30_encoding.md R107). -/
inductive Route where
  | readablePage | bareValue
deriving DecidableEq, Repr

/-- A move of the surroundings in a run that no script describes (spec/43_boundary.md R209). A line or a route request is
at the block the post its adapter makes. -/
inductive Offer where
  /-- The Byte Source has a byte. -/
  | deliver (b : Byte)
  /-- A front end has a request. -/
  | post (p : Nat) (k : Kind)
  /-- The host asserts `rst`. -/
  | reset
deriving DecidableEq, Repr

/-- The six code spaces of spec/30_encoding.md, each with a raw code as its table gives it. -/
inductive CodeWord where
  /-- FRAME20: a 20-byte capture as one number (R91). -/
  | frame20 (f : FrameBits)
  /-- DSEL: the dispatcher select `{phase, tnz}` (R102). -/
  | dsel (c : BitVec 3)
  /-- OP3: an operation select with its operand beside it (R103; log entry 19). -/
  | op3 (c : BitVec 3) (operand : BitVec 16)
  /-- KIND3: a request kind with the port number beside it (R104; log entry 19). -/
  | kind3 (c : BitVec 3) (port : Nat)
  /-- TEXT: a whole line of the text channel (R105). -/
  | text (line : Line)
  /-- STIM12: a word of a stimulus script (R112). -/
  | stim12 (w : BitVec 12)
deriving DecidableEq, Repr

/-- One constructor per row of spec/opcode_table.json. -/
inductive Instr where
  /-- PM25_REPORT: the one report frame, with its reading and its ignored trailer (R91, R92). -/
  | pm25Report (pm25 : Reading) (trailer : BitVec 104)
  /-- D_SERVICE (spec/41_dispatch.md R152). -/
  | dService
  /-- D_WAIT_POLL (R153). -/
  | dWaitPoll
  /-- D_WAIT_SLEEP (R154). -/
  | dWaitSleep
  /-- D_CAP_READ (R155). -/
  | dCapRead
  /-- D_CAP_SETTLE (R156). -/
  | dCapSettle
  /-- D_EVAL (R157). -/
  | dEval
  /-- IDLE: no operation issued (spec/30_encoding.md R103). -/
  | idle
  /-- APPEND (spec/40_framer.md R131). -/
  | append (b : Byte)
  /-- EVALUATE (R132). -/
  | evaluate
  /-- GET (spec/42_cache.md R190). -/
  | get
  /-- SET (R191). -/
  | set (v : Reading)
  /-- SERVICE_ALL (spec/41_dispatch.md R160). -/
  | serviceAll
  /-- REQ_DATA: the service of one DATA request of port `p` (spec/43_boundary.md R207). -/
  | reqData (p : Nat)
  /-- REQ_STATUS (R207). -/
  | reqStatus (p : Nat)
  /-- REQ_HELP (R207). -/
  | reqHelp (p : Nat)
  /-- REQ_PAGE (R207). -/
  | reqPage (p : Nat)
  /-- REQ_VALUE (R207). -/
  | reqValue (p : Nat)
  /-- CMD_DATA: the line `data` in some letter case (spec/30_encoding.md R105). -/
  | cmdData (line : Line)
  /-- CMD_STATUS: the line `status` in some letter case (R105). -/
  | cmdStatus (line : Line)
  /-- CMD_OTHER: any other line (R105). -/
  | cmdOther (line : Line)
  /-- DELIVER, `RX hh` (spec/43_boundary.md R201). -/
  | deliver (b : Byte)
  /-- POST, `REQ p KIND` (R206). -/
  | post (p : Nat) (k : Kind)
  /-- STEP, `STEP n` (spec/30_encoding.md R110, R112). -/
  | step (n : Nat)
  /-- RESET (spec/70_reset_and_hazards.md R260). -/
  | reset
deriving DecidableEq, Repr

end Sys2Proof
end

