-- ==== Sys2Proof/Config.lean ====
section
/-! DEFINITION. The block's constants, its launch parameters (spec/00_scope.md R8, spec/10_state.md R21) and the model's
one free value, the endless sequence of the surroundings' moves (log entry 29).
The parameters are carried in `State.cfg`, which no step writes, so that a statement over all states holds for every
value of them (log entry 1). -/

namespace Sys2Proof

/-- `CAP`: the Frame Buffer's capacity in bytes, also the frame length (R8, fixed by the source). -/
abbrev cap : Nat := 20

/-- `HDR_LEN`: the number of header bytes (R8). -/
abbrev hdrLen : Nat := 5

/-- `PM_OFF`: the offset of the reading's high byte (R8). -/
abbrev pmOff : Nat := 5

/-- `HEADER`: bytes 0 to 4 of a frame as one big-endian 40-bit number (R8, spec/20_memory.md R62). -/
abbrev header : BitVec 40 := 0x16110B0000#40

@[simp] theorem cap_eq : cap = 20 := rfl
@[simp] theorem hdrLen_eq : hdrLen = 5 := rfl
@[simp] theorem pmOff_eq : pmOff = 5 := rfl
@[simp] theorem header_eq : header = 0x16110B0000#40 := rfl

/-- The launch parameters of R8 that the model's behaviour depends on. `NFE` is not here: it is the number of the
state's request queues. -/
structure Config where
  /-- `T_YIELD`, the wait-phase sleep in ticks. -/
  tYield : Nat
  /-- `T_SETTLE`, the settling delay in ticks. -/
  tSettle : Nat
  /-- `READING_RESET`, the Reading Cache's value after reset; OPEN in the spec. -/
  readingReset : Reading
  /-- `link_ok`: whether the Byte Source could be opened. -/
  linkOk : Bool
  /-- `RXQ_DEPTH`, `none` for unbounded; OPEN in the spec. -/
  rxqDepth : Option Nat
  /-- `FEQ_DEPTH`, `none` for unbounded; OPEN in the spec. -/
  feqDepth : Option Nat
  /-- The request port of the text channel (spec/43_boundary.md R205: port 0 at the default NFE). -/
  textPort : Nat
  /-- The request port of the HTTP responder (R205: port 1 at the default NFE). -/
  httpPort : Nat
deriving DecidableEq, Repr

/-- The defaults of R8: one tick of sleep, 15 of settling, an open link. DESIGN CHOICE (log entries 2, 11):
`READING_RESET` is 0 and the depths are unbounded, the values the spec suggests for parameters it leaves OPEN. -/
def Config.default : Config where
  tYield := 1
  tSettle := 15
  readingReset := 0
  linkOk := true
  rxqDepth := none
  feqDepth := none
  textPort := 0
  httpPort := 1

/-- What the surroundings do at the `n`-th turn of a run whose supply of moves is free: a free value, so that what holds of
such a run holds for every endless sequence of moves (spec/20_memory.md R70 b, spec/93_implementation_defined.md U7; log
entry 29). Nothing at a turn lets the dispatcher step. -/
opaque Config.surroundings : Nat → Option Offer

/-- `NFE` at its default (R8). -/
def defaultPorts : Nat := 2

/-- `T_FRAME = CAP * T_SETTLE`, the derived constant of R8. -/
def Config.tFrame (c : Config) : Nat := cap * c.tSettle

end Sys2Proof
end

