-- ==== Sys2Proof/WellFormed.lean ====
section
/-! DEFINITION. Which instruction terms stand for a word of the spec's encodings: the lines of the three text commands
(spec/30_encoding.md R105, R106) and the operand ranges of STIM12 (R112). -/

namespace Sys2Proof

/-- `c & 0xDF`, a letter's upper-case code (spec/30_encoding.md R106). -/
def upper (c : Byte) : Byte := c &&& 0xDF#8

/-- `data` in upper case, `44 41 54 41` (R106; PRESUMED ASCII, log entry 12). -/
def dataWord : Line := [0x44, 0x41, 0x54, 0x41]

/-- `status` in upper case, `53 54 41 54 55 53` (R106; PRESUMED ASCII, log entry 12). -/
def statusWord : Line := [0x53, 0x54, 0x41, 0x54, 0x55, 0x53]

/-- The whole line is the word `data` in some letter case (R105, R106). -/
def isData (line : Line) : Bool := line.map upper == dataWord

/-- The whole line is the word `status` in some letter case (R105, R106). -/
def isStatus (line : Line) : Bool := line.map upper == statusWord

/-- A term that stands for a word of its format. -/
def Instr.wellFormed : Instr → Bool
  | .pm25Report _ _ => true
  | .dService => true
  | .dWaitPoll => true
  | .dWaitSleep => true
  | .dCapRead => true
  | .dCapSettle => true
  | .dEval => true
  | .idle => true
  | .append _ => true
  | .evaluate => true
  | .get => true
  | .set _ => true
  | .serviceAll => true
  | .reqData _ => true
  | .reqStatus _ => true
  | .reqHelp _ => true
  | .reqPage _ => true
  | .reqValue _ => true
  | .cmdData line => isData line
  | .cmdStatus line => isStatus line
  | .cmdOther line => !isData line && !isStatus line
  | .deliver _ => true
  | .post p _ => decide (p < 16)
  | .step n => decide (0 < n) && decide (n < 256)
  | .reset => true

end Sys2Proof
end

