-- ==== Sys2Proof/Decode.lean ====
section
/-! DEFINITION. The decoders of the six code spaces of spec/30_encoding.md, total and rejecting by name, and after them
the encoder. Phase, outcome and kind codes (R100, R101, R104) stand beside the fields they code. -/

namespace Sys2Proof

/-- Why a code word stands for no instruction. -/
inductive DecodeError where
  /-- A 20-byte frame whose first five bytes are not the header (R95 a, b). -/
  | headerMismatch
  /-- A dispatcher select with no step, 001 or 111 (R102). -/
  | noDispatcherStep
  /-- Operation select 6 or 7 (R103). -/
  | reservedOperation
  /-- An operand beside an operation that takes none, or wider than it takes (R103; log entry 19). -/
  | strayOperand
  /-- Request kind code 5 to 7 (R104). -/
  | reservedKind
  /-- STIM12 statement code 0x0 or 0x5 to 0xF (R112). -/
  | reservedStatement
  /-- `REQ` with bit 7 set (R112). -/
  | reservedRequestBit
  /-- `STEP` with operand 0 (R112). -/
  | zeroSteps
  /-- `RESET` with a non-zero operand (R112). -/
  | resetOperand
deriving DecidableEq, Repr

/-- The decoder's answer: an instruction, or a rejection by name. -/
inductive Decoded where
  | instr (i : Instr)
  | reject (why : DecodeError)
deriving DecidableEq, Repr

/-- The instruction decoded, if there is one. -/
def Decoded.instr? : Decoded → Option Instr
  | .instr i => some i
  | .reject _ => none

/-- Request kind codes, 3 bits (R104). -/
def Kind.code : Kind → BitVec 3
  | .data => 0
  | .status => 1
  | .help => 2
  | .page => 3
  | .value => 4

/-- The kind of a code; 5 to 7 are reserved (R104). -/
def Kind.ofCode (c : BitVec 3) : Option Kind :=
  match c.toNat with
  | 0 => some .data
  | 1 => some .status
  | 2 => some .help
  | 3 => some .page
  | 4 => some .value
  | _ => none

/-- FRAME20: the header must match in all 40 bits (R91, R92); the trailer may be anything. -/
def decodeFrame (f : FrameBits) : Decoded :=
  if f.extractLsb' 120 40 = header then
    .instr (.pm25Report (f.extractLsb' 104 16) (f.extractLsb' 0 104))
  else .reject .headerMismatch

/-- DSEL (R102). -/
def decodeDsel (c : BitVec 3) : Decoded :=
  match c.toNat with
  | 0 => .instr .dService
  | 2 => .instr .dWaitPoll
  | 3 => .instr .dWaitSleep
  | 4 => .instr .dCapRead
  | 5 => .instr .dCapSettle
  | 6 => .instr .dEval
  | _ => .reject .noDispatcherStep

/-- An operation that takes no operand has none beside it (R103; log entry 19). -/
def withoutOperand (operand : BitVec 16) (i : Instr) : Decoded :=
  if operand = 0 then .instr i else .reject .strayOperand

/-- OP3 (R103): APPEND's operand is one byte, SET's is 16 bits. -/
def decodeOp (c : BitVec 3) (operand : BitVec 16) : Decoded :=
  match c.toNat with
  | 0 => withoutOperand operand .idle
  | 1 => if operand.extractLsb' 8 8 = 0 then .instr (.append (operand.extractLsb' 0 8)) else .reject .strayOperand
  | 2 => withoutOperand operand .evaluate
  | 3 => withoutOperand operand .get
  | 4 => .instr (.set operand)
  | 5 => withoutOperand operand .serviceAll
  | _ => .reject .reservedOperation

/-- The service of one request of kind `k` on port `p`. -/
def Instr.ofRequest (p : Nat) : Kind → Instr
  | .data => .reqData p
  | .status => .reqStatus p
  | .help => .reqHelp p
  | .page => .reqPage p
  | .value => .reqValue p

/-- KIND3 (R104). -/
def decodeKind (c : BitVec 3) (port : Nat) : Decoded :=
  match Kind.ofCode c with
  | some k => .instr (Instr.ofRequest port k)
  | none => .reject .reservedKind

/-- TEXT (R105): `data`, `status`, and anything else, which is the row of lowest priority. -/
def decodeLine (line : Line) : Decoded :=
  if isData line then .instr (.cmdData line)
  else if isStatus line then .instr (.cmdStatus line)
  else .instr (.cmdOther line)

/-- STIM12 (R112): the statement code is bits 11:8, its operand bits 7:0. -/
def decodeStim (w : BitVec 12) : Decoded :=
  match (w.extractLsb' 8 4).toNat with
  | 1 => .instr (.deliver (w.extractLsb' 0 8))
  | 2 =>
    if w.extractLsb' 7 1 = 1 then .reject .reservedRequestBit
    else match Kind.ofCode (w.extractLsb' 0 3) with
      | some k => .instr (.post (w.extractLsb' 3 4).toNat k)
      | none => .reject .reservedKind
  | 3 => if w.extractLsb' 0 8 = 0 then .reject .zeroSteps else .instr (.step (w.extractLsb' 0 8).toNat)
  | 4 => if w.extractLsb' 0 8 = 0 then .instr .reset else .reject .resetOperand
  | _ => .reject .reservedStatement

/-- The decoder, on a code word of any of the six code spaces. -/
def decode : CodeWord → Decoded
  | .frame20 f => decodeFrame f
  | .dsel c => decodeDsel c
  | .op3 c operand => decodeOp c operand
  | .kind3 c port => decodeKind c port
  | .text line => decodeLine line
  | .stim12 w => decodeStim w

/-- The code word of a well-formed instruction, from the tables of R91, R102 to R104, R106 and R112. -/
def encode : Instr → CodeWord
  | .pm25Report pm25 trailer => .frame20 (header ++ pm25 ++ trailer)
  | .dService => .dsel 0b000
  | .dWaitPoll => .dsel 0b010
  | .dWaitSleep => .dsel 0b011
  | .dCapRead => .dsel 0b100
  | .dCapSettle => .dsel 0b101
  | .dEval => .dsel 0b110
  | .idle => .op3 0 0
  | .append b => .op3 1 (0#8 ++ b)
  | .evaluate => .op3 2 0
  | .get => .op3 3 0
  | .set v => .op3 4 v
  | .serviceAll => .op3 5 0
  | .reqData p => .kind3 0 p
  | .reqStatus p => .kind3 1 p
  | .reqHelp p => .kind3 2 p
  | .reqPage p => .kind3 3 p
  | .reqValue p => .kind3 4 p
  | .cmdData line => .text line
  | .cmdStatus line => .text line
  | .cmdOther line => .text line
  | .deliver b => .stim12 (0x1#4 ++ b)
  | .post p k => .stim12 (0b00100#5 ++ BitVec.ofNat 4 p ++ k.code)
  | .step n => .stim12 (0x3#4 ++ BitVec.ofNat 8 n)
  | .reset => .stim12 0x400

/-- The `n` bytes of the number `w`, most significant first: the order of arrival of a frame's bytes and of a line's
characters in the table's numbers (R91, R106). -/
def bytesOf (n w : Nat) : List Byte :=
  (List.range n).map fun i => BitVec.ofNat 8 (w >>> (8 * (n - 1 - i)))

/-- The code words a number of `nbits` bits may be. Three code spaces of the table have 3-bit codes and the number alone
does not say which is meant: they are tried in the table's order (log entry 6). Bits above the code's width are no
bits of it (log entry 22). -/
def tableWords (nbits w : Nat) : List CodeWord :=
  match nbits with
  | 0 => [.text []]
  | 3 => [.dsel (BitVec.ofNat 3 w), .op3 (BitVec.ofNat 3 w) 0, .kind3 (BitVec.ofNat 3 w) 0]
  | 8 => [.dsel (BitVec.ofNat 3 w), .op3 (BitVec.ofNat 3 w) 0, .kind3 (BitVec.ofNat 3 w) 0]
  | 12 => [.stim12 (BitVec.ofNat 12 w)]
  | 16 => [.stim12 (BitVec.ofNat 12 w)]
  | 32 => [.text (bytesOf 4 w)]
  | 48 => [.text (bytesOf 6 w)]
  | 160 => [.frame20 (BitVec.ofNat 160 w)]
  | _ => []

/-- The code word a number of `nbits` bits is read as: the first candidate that decodes, else the first candidate. -/
def tableWord (nbits w : Nat) : Option CodeWord :=
  let candidates := tableWords nbits w
  match candidates.find? (fun c => (decode c).instr?.isSome) with
  | some c => some c
  | none => candidates.head?

/-- The instruction the decoder reads from a table word. -/
def decodeTableWord (nbits w : Nat) : Option Instr :=
  match tableWord nbits w with
  | some c => (decode c).instr?
  | none => none

end Sys2Proof
end

