-- ==== Sys2Proof/Machine/State.lean ====
section
/-! DEFINITION. The machine's state as plain data: the block's registers (spec/10_state.md R22 to R29), the boundary
queues (R31, R32), the launch parameters (R21), the output trace (R40), and the model's own fields. -/

namespace Sys2Proof.Machine

open Sys2Proof

/-- The dispatcher's place in the loop (spec/10_state.md R26); its codes are `Phase.code` (spec/30_encoding.md R100). -/
inductive Phase where
  | servicing | waiting | capturing | evaluating
deriving DecidableEq, Repr

/-- The outcome tag of one EVALUATE (spec/30_encoding.md R94, R101). -/
inductive EvalTag where
  | valid | incomplete | headerMismatch
deriving DecidableEq, Repr

/-- The register `last_outcome`: NONE before the first EVALUATE, then its last tag (spec/10_state.md R27). -/
inductive LastOutcome where
  | never
  | tag (t : EvalTag)
deriving DecidableEq, Repr

/-- The closed event alphabet of the output trace (spec/10_state.md R40). -/
inductive Event where
  /-- Port `p` is answered; HELP carries no value. -/
  | response (p : Nat) (k : Kind) (v : Option Reading)
  /-- The console is given a reading just decoded. -/
  | echo (v : Reading)
  /-- EVALUATE has run with this outcome. -/
  | eval (t : EvalTag)
  /-- APPEND refused a byte at capacity. -/
  | overrun
  /-- The Byte Source could not be opened. -/
  | linkError
deriving DecidableEq, Repr

/-- What an operation returned (spec/42_cache.md R190, spec/40_framer.md R132). -/
inductive OpResult where
  | value (v : Reading)
  | outcome (t : EvalTag)
deriving DecidableEq, Repr

/-- One pending move of the surroundings. -/
inductive Move where
  /-- A STIM12 word of a script (spec/30_encoding.md R112). -/
  | word (w : BitVec 12)
  /-- `REQ p KIND` in the script's text form, which has no limit on the port (R110, R112). -/
  | request (p : Nat) (k : Kind)
  /-- A line that reaches the text channel's adapter (R105). -/
  | line (l : Line)
  /-- A request that reaches the HTTP-style adapter (R107). -/
  | route (r : Route)
deriving DecidableEq, Repr

/-- What the surroundings do once the pending moves are used up (log entries 5, 29). Runs are endless
(spec/41_dispatch.md R164), and so may the moves of the surroundings be (spec/70_reset_and_hazards.md R272). -/
inductive Supply where
  /-- Nothing: the dispatcher steps by itself. -/
  | silent
  /-- The same moves over and over. -/
  | cycle (moves : List Move)
  /-- Any moves at all: those of `Config.surroundings` from turn `n` on. -/
  | free (n : Nat)
deriving DecidableEq, Repr

/-- The whole machine. -/
structure State where
  /-- The launch parameters; no step writes them (spec/10_state.md R21). -/
  cfg : Config
  /-- `buf[0..19]`: the cells that are not 0x00, offsets strictly rising (R22). -/
  buf : List Host.Cell
  /-- The fill count (R23). -/
  length : FillCount
  /-- The Reading Cache (R24). -/
  reading : Reading
  /-- The outcome of the last EVALUATE (R27). -/
  lastOutcome : LastOutcome
  /-- The dispatcher's program counter (R26). -/
  phase : Phase
  /-- The delay down-counter (R25; log entry 15). -/
  timer : Nat
  /-- The Byte Source's queue, oldest first (R31). -/
  rxq : List Byte
  /-- The request queues, one per port, each oldest first; their number is `NFE` (R32). -/
  feq : List (List Kind)
  /-- The output trace, oldest first; no rule reads it (R21, R40). -/
  trace : List Event
  /-- Ticks since reset (spec/70_reset_and_hazards.md R285; log entry 14). -/
  now : Nat
  /-- Dispatcher steps since reset (spec/95_test_vectors.md; log entry 14). -/
  steps : Nat
  /-- The model's own: what GET or EVALUATE last returned when issued by itself (log entry 13). -/
  opResult : Option OpResult
  /-- The model's own: the pending moves of the surroundings, next first (log entry 5). -/
  script : List Move
  /-- The model's own: what the surroundings do after `script` (log entries 5, 29). -/
  supply : Supply
deriving DecidableEq, Repr

/-- Where the machine is stuck. The spec has no fault (spec/60_exceptions.md R230); each of these marks a state that no
run from reset reaches, and stopping there is safe. -/
inductive Fault where
  /-- Raised by the dispatcher when `{phase, tnz}` is 001 or 111, which have no step (spec/30_encoding.md R102,
  93_implementation_defined.md U16). Safe. -/
  | stuckDsel
  /-- Raised by APPEND and EVALUATE when `length` is 21 to 31 (93_implementation_defined.md U17). Safe. -/
  | stuckLength
  /-- Raised by MemRead and MemWrite outside cells 0 to 19 (spec/20_memory.md R68). Safe. -/
  | noSuchCell
deriving DecidableEq, Repr

/-- Why a move is not accepted. -/
inductive Refusal where
  /-- Raised by `exec` for an instruction that has no meaning yet; no arm uses it. Safe. -/
  | notModelled (mnemonic : String)
  /-- Raised by `step` on a reserved script word, which a runner refuses (spec/30_encoding.md R112, U20). Safe. -/
  | reservedWord
  /-- Raised by the bare RxRead with no byte available (spec/43_boundary.md R203, U5). Safe. -/
  | rxReadEmpty
  /-- Raised by a request, a post or a text command on a port that is not below `NFE` (spec/30_encoding.md R112). Safe. -/
  | noSuchPort
  /-- Raised by DELIVER when a bounded Byte Source queue is full (spec/43_boundary.md R201, U11). Safe. -/
  | rxqFull
  /-- Raised by POST and the text commands when a bounded request queue is full (R206, U10). Safe. -/
  | feqFull
  /-- Raised by DELIVER in a launch whose link could not be opened: it has no DELIVER (R204). Safe (log entry 17). -/
  | byteSourceClosed
  /-- Raised by a dispatcher step that `{phase, tnz}` does not select (spec/41_dispatch.md R151). Safe (log entry 10). -/
  | stepNotEnabled
deriving DecidableEq, Repr

/-- The machine right after reset with the default parameters (spec/10_state.md R41). DESIGN CHOICE (log entries 2, 3):
`reading` is the suggested 0, and the boundary queues, arbitrary in the spec, are empty on the default two ports. The
surroundings are silent (log entry 5). -/
def State.reset : State where
  cfg := Config.default
  buf := []
  length := 0
  reading := Config.default.readingReset
  lastOutcome := .never
  phase := .servicing
  timer := 0
  rxq := []
  feq := List.replicate defaultPorts []
  trace := []
  now := 0
  steps := 0
  opResult := none
  script := []
  supply := .silent

end Sys2Proof.Machine
end

