-- ==== Sys2Proof/Machine/Ops.lean ====
section
/-! DEFINITION. The named operations of spec/00_scope.md R12 and R13 over the frame space, the queues and the trace.
The block has no exception entry and no return from one (spec/60_exceptions.md R230, R243, R244): what a condition does
in their place is `emit` an event and, for the discards, `clearFrame`. -/

namespace Sys2Proof.Machine

open Sys2Proof

/-- The outcome of a step or an operation of this machine. -/
abbrev Out := Host.Outcome State Fault Refusal

/-- Go on with `k` after an operation that answered a next state; a stop stays a stop. -/
def andThen : Out → (State → Out) → Out
  | .next s, k => k s
  | .fault f, _ => .fault f
  | .refused r, _ => .refused r

/-! ### The frame space -/

/-- The byte at offset `a`; an unlisted cell holds 0x00, as after a clear (spec/10_state.md R41). -/
def readCell : List Host.Cell → Nat → Byte
  | [], _ => 0
  | (b, w) :: m, a => if a = b then w else readCell m a

/-- The frame space with the byte `v` at offset `a`, in canonical form: a zero cell is not listed. -/
def writeCell : List Host.Cell → Nat → Byte → List Host.Cell
  | [], a, v => if v = 0 then [] else [(a, v)]
  | (b, w) :: m, a, v =>
    if a < b then if v = 0 then (b, w) :: m else (a, v) :: (b, w) :: m
    else if a = b then if v = 0 then m else (a, v) :: m
    else (b, w) :: writeCell m a v

/-- The cells from `lo` on are listed with strictly rising offsets below `CAP` and no zero. -/
def Memory.wfFrom : Nat → List Host.Cell → Bool
  | _, [] => true
  | lo, (a, v) :: m => decide (lo ≤ a) && decide (a < cap) && decide (v ≠ 0) && Memory.wfFrom (a + 1) m

/-- The frame space is in canonical form. -/
def Memory.wf (m : List Host.Cell) : Bool := Memory.wfFrom 0 m

/-- The `n` bytes from offset `a` as one number, the byte at `a` most significant (spec/00_scope.md R12). -/
def memBits (m : List Host.Cell) (a : Nat) : (n : Nat) → BitVec (8 * n)
  | 0 => 0
  | n + 1 => memBits m a n ++ readCell m (a + n)

/-- The frame space with the `n` bytes of `v` written from offset `a`, most significant first (R12). -/
def writeBits (m : List Host.Cell) (a : Nat) : (n : Nat) → BitVec (8 * n) → List Host.Cell
  | 0, _ => m
  | n + 1, v => writeCell (writeBits m a n (v.extractLsb' 8 (8 * n))) (a + n) (v.extractLsb' 0 8)

/-- MemRead (R12): nothing outside cells 0 to 19 (spec/20_memory.md R68). -/
def memRead (s : State) (a n : Nat) : Option (BitVec (8 * n)) :=
  if a + n ≤ cap then some (memBits s.buf a n) else none

/-- MemWrite (R12): an offset outside 0 to 19 has no cell (spec/20_memory.md R68). -/
def memWrite (s : State) (a n : Nat) (v : BitVec (8 * n)) : Out :=
  if a + n ≤ cap then .next { s with buf := writeBits s.buf a n v } else .fault .noSuchCell

/-- MemClear and `length <- 0`: what every discard and every evaluation leaves (R12, spec/40_framer.md R132). -/
def clearFrame (s : State) : State := { s with buf := [], length := 0 }

/-! ### Events -/

/-- `emit` (spec/00_scope.md R13): the event is the last of the trace and changes nothing else. -/
def emit (e : Event) (s : State) : State := { s with trace := s.trace ++ [e] }

/-! ### The Byte Source's queue -/

/-- `RxAvail()` (spec/10_state.md R31). -/
def rxAvail (s : State) : Bool := !s.rxq.isEmpty

/-- `RxRead()`: removes and gives the oldest byte; nothing when none is available (spec/43_boundary.md R203). -/
def rxRead (s : State) : Option (Byte × State) :=
  match s.rxq with
  | [] => none
  | b :: rest => some (b, { s with rxq := rest })

/-- Go on with the byte RxRead gives; the bare read of an empty queue is refused (U5). -/
def withRxRead (s : State) (k : Byte → State → Out) : Out :=
  match rxRead s with
  | some (b, s') => k b s'
  | none => .refused .rxReadEmpty

/-- A queue of `n` entries and this depth has room for one more. -/
def hasRoom (depth : Option Nat) (n : Nat) : Bool :=
  match depth with
  | none => true
  | some d => decide (n < d)

/-! ### The request queues -/

/-- `NFE`, the number of request ports (spec/00_scope.md R8). -/
def State.nfe (s : State) : Nat := s.feq.length

/-- The queue of port `p`; a port that is absent has none waiting. -/
def State.queue (s : State) (p : Nat) : List Kind := s.feq[p]?.getD []

/-- `pop_front(feq[p])` (spec/41_dispatch.md R160). -/
def popRequest (s : State) (p : Nat) : Option (Kind × State) :=
  match s.queue p with
  | [] => none
  | k :: rest => some (k, { s with feq := s.feq.set p rest })

/-- A request of kind `k` joins the queue of port `p` (spec/43_boundary.md R206; a full queue: log entry 11). -/
def postRequest (p : Nat) (k : Kind) (s : State) : Out :=
  if p < s.nfe then
    if hasRoom s.cfg.feqDepth (s.queue p).length then .next { s with feq := s.feq.set p (s.queue p ++ [k]) }
    else .refused .feqFull
  else .refused .noSuchPort

/-! ### The Reading Cache -/

/-- GET's result (spec/42_cache.md R190). -/
def getReading (s : State) : Reading := s.reading

/-- SET (R191): all 16 bits in one write. -/
def setReading (v : Reading) (s : State) : State := { s with reading := v }

/-! ### The dispatcher's bookkeeping -/

/-- Phase codes, 2 bits (spec/30_encoding.md R100). -/
def Phase.code : Phase → BitVec 2
  | .servicing => 0
  | .waiting => 1
  | .capturing => 2
  | .evaluating => 3

/-- The dispatcher select `{phase, tnz}` (R102). -/
def State.dsel (s : State) : BitVec 3 := s.phase.code ++ (if s.timer = 0 then 0#1 else 1#1)

/-- One dispatcher step that took `ticks` ticks is done (spec/70_reset_and_hazards.md R285; log entry 14). -/
def counted (ticks : Nat) (s : State) : State := { s with now := s.now + ticks, steps := s.steps + 1 }

/-- A dispatcher step runs only where `{phase, tnz}` selects it (spec/41_dispatch.md R151; log entry 10). -/
def whenSelected (d : BitVec 3) (s : State) (k : Out) : Out :=
  if s.dsel = d then k else .refused .stepNotEnabled

end Sys2Proof.Machine
end

