-- ==== Sys2Proof/Machine/Operands.lean ====
section
/-! DEFINITION. Operand forms: the reading assembled from frame bytes (spec/30_encoding.md R93), the frame as the buffer
holds it (R91), and how the adapters of the surroundings make a request kind (R105, R107). -/

namespace Sys2Proof.Machine

open Sys2Proof

/-- `pm25 = (zext_16(high) << 8) | zext_16(low)` (spec/30_encoding.md R93). -/
def assembleReading (high low : Byte) : Reading := (high.setWidth 16 <<< 8) ||| low.setWidth 16

/-- The reading of the frame in the buffer: the bytes at offsets 5 and 6 (R93). -/
def frameReading (m : List Host.Cell) : Reading := assembleReading (readCell m pmOff) (readCell m (pmOff + 1))

/-- The header bytes of the frame in the buffer, `MemRead(0, 5)` (R92). -/
def headerBits (m : List Host.Cell) : BitVec 40 := memBits m 0 hdrLen

/-- The whole frame in the buffer, `MemRead(0, 20)` (R91). -/
def frameBits (m : List Host.Cell) : FrameBits := memBits m 0 cap

/-- The state with the 20 bytes of `f` captured (R91). -/
def State.holding (s : State) (f : FrameBits) : State := { s with buf := writeBits [] 0 cap f, length := 20 }

/-- The kind a line of the text channel asks for (R105). -/
def lineKind (line : Line) : Kind :=
  if isData line then .data else if isStatus line then .status else .help

/-- The kind a route asks for (R107). -/
def routeKind : Route → Kind
  | .readablePage => .page
  | .bareValue => .value

/-- The answer to this kind shows the current value: every kind but HELP (spec/43_boundary.md R208). -/
def showsValue (k : Kind) : Bool := k != .help

end Sys2Proof.Machine
end

