-- ==== Sys2Proof/Machine/Flags.lean ====
section
/-! DEFINITION. The one flag group, `last_outcome`: how its tag is computed (spec/30_encoding.md R94) and coded (R101). -/

namespace Sys2Proof.Machine

open Sys2Proof

/-- The fill count is legal, 0 to 20 (spec/10_state.md R23, U17). -/
def lengthLegal (s : State) : Bool := decide (s.length.toNat ≤ cap)

/-- The outcome tag: the length is tested before the header (R94). -/
def evalTag (s : State) : EvalTag :=
  if s.length.toNat ≠ cap then .incomplete
  else if headerBits s.buf ≠ header then .headerMismatch
  else .valid

/-- Outcome codes on `eval_outcome`, 2 bits (R101). -/
def EvalTag.code : EvalTag → BitVec 2
  | .valid => 1
  | .incomplete => 2
  | .headerMismatch => 3

/-- Outcome codes on `last_outcome`, 2 bits (R101). -/
def LastOutcome.code : LastOutcome → BitVec 2
  | .never => 0
  | .tag t => t.code

/-- `last_outcome` takes the tag and the event `Eval` is emitted (spec/40_framer.md R132). -/
def recordOutcome (t : EvalTag) (s : State) : State := emit (.eval t) { s with lastOutcome := .tag t }

end Sys2Proof.Machine
end

