-- ==== Sys2Proof/Machine/Framer.lean ====
section
/-! DEFINITION. The Packet Framer/Decoder (spec/40_framer.md): APPEND, EVALUATE, and the one frame EVALUATE accepts. -/

namespace Sys2Proof.Machine

open Sys2Proof

/-- APPEND (R131): store and count the byte; at capacity refuse it, clear the buffer and emit Overrun. -/
def appendByte (b : Byte) (s : State) : Out :=
  if lengthLegal s then
    if s.length.toNat < cap then
      andThen (memWrite s s.length.toNat 1 b) fun t => .next { t with length := t.length + 1 }
    else .next (emit .overrun (clearFrame s))
  else .fault .stuckLength

/-- How every EVALUATE ends, whatever its outcome (R132): the buffer cleared, the outcome recorded. -/
def finishEvaluation (t : EvalTag) (s : State) : State := recordOutcome t (clearFrame s)

/-- The VALID branch of EVALUATE (R132): SET, then Echo, then the common end. -/
def acceptReading (v : Reading) (s : State) : State := finishEvaluation .valid (emit (.echo v) (setReading v s))

/-- EVALUATE (R132). -/
def evaluateFrame (s : State) : Out :=
  if lengthLegal s then
    match evalTag s with
    | .valid => .next (acceptReading (frameReading s.buf) s)
    | .incomplete => .next (finishEvaluation .incomplete s)
    | .headerMismatch => .next (finishEvaluation .headerMismatch s)
  else .fault .stuckLength

/-- PM25_REPORT: what the decoder does with a frame that matches (R92, R132; log entry 20). The trailer is ignored. -/
def execPm25Report (pm25 : Reading) (_trailer : BitVec 104) (s : State) : Out := .next (acceptReading pm25 s)

/-- The operation IDLE: no operation is issued (spec/30_encoding.md R103). -/
def execIdle (s : State) : Out := .next s

/-- The operation APPEND (R131). -/
def execAppend (b : Byte) (s : State) : Out := appendByte b s

/-- The operation EVALUATE; it returns the outcome tag (R132; log entry 13). -/
def execEvaluate (s : State) : Out :=
  andThen (evaluateFrame s) fun t => .next { t with opResult := some (.outcome (evalTag s)) }

end Sys2Proof.Machine
end

