-- ==== Sys2Proof/Machine/Service.lean ====
section
/-! DEFINITION. The service of front-end requests: SERVE (spec/43_boundary.md R207), the service pass SERVICE_ALL
(spec/41_dispatch.md R160), and the request kinds as instructions. -/

namespace Sys2Proof.Machine

open Sys2Proof

/-- SERVE (R207): HELP is answered with no value, every other kind with GET's. -/
def serve (p : Nat) (k : Kind) (s : State) : State :=
  emit (.response p k (if showsValue k then some (getReading s) else none)) s

/-- `repeat n times`: the `n` oldest requests of port `p`, oldest first (R160). -/
def servePort (p : Nat) : Nat → State → State
  | 0, s => s
  | n + 1, s =>
    match popRequest s p with
    | some (k, t) => servePort p n (serve p k t)
    | none => s

/-- The ports of the list, each with the requests it holds when its turn comes (R160). -/
def servePorts : List Nat → State → State
  | [], s => s
  | p :: ps, s => servePorts ps (servePort p (s.queue p).length s)

/-- SERVICE_ALL (R160): every port, in ascending order. -/
def serviceAll (s : State) : State := servePorts (List.range s.nfe) s

/-- The operation SERVICE_ALL (R160). -/
def execServiceAll (s : State) : Out := .next (serviceAll s)

/-- One request of kind `k` answered on port `p`, which must exist (R207; spec/43_boundary.md R206). -/
def serveRequest (p : Nat) (k : Kind) (s : State) : Out :=
  if p < s.nfe then .next (serve p k s) else .refused .noSuchPort

/-- REQ_DATA (R207, R208). -/
def execReqData (p : Nat) (s : State) : Out := serveRequest p .data s

/-- REQ_STATUS (R207, R208). -/
def execReqStatus (p : Nat) (s : State) : Out := serveRequest p .status s

/-- REQ_HELP (R207, R208). -/
def execReqHelp (p : Nat) (s : State) : Out := serveRequest p .help s

/-- REQ_PAGE (R207, R208). -/
def execReqPage (p : Nat) (s : State) : Out := serveRequest p .page s

/-- REQ_VALUE (R207, R208). -/
def execReqValue (p : Nat) (s : State) : Out := serveRequest p .value s

end Sys2Proof.Machine
end

