-- ==== Sys2Proof/Machine/Arbiter.lean ====
section
/-! DEFINITION. The cooperative dispatch arbiter: its six steps (spec/41_dispatch.md R152 to R157) and the one that the
state selects (R151, R167). -/

namespace Sys2Proof.Machine

open Sys2Proof

/-- D_SERVICE (R152). -/
def execDService (s : State) : Out :=
  whenSelected 0b000 s (.next (counted 0 { serviceAll s with phase := .waiting }))

/-- D_WAIT_POLL (R153): a byte ends the wait, else a service pass and the sleep begins. -/
def execDWaitPoll (s : State) : Out :=
  whenSelected 0b010 s <|
    if rxAvail s then .next (counted 0 { s with phase := .capturing })
    else .next (counted 0 { serviceAll s with timer := s.cfg.tYield })

/-- One tick of a delay (R154, R156). -/
def sleepTick (s : State) : State := counted 1 { s with timer := s.timer - 1 }

/-- D_WAIT_SLEEP (R154). -/
def execDWaitSleep (s : State) : Out := whenSelected 0b011 s (.next (sleepTick s))

/-- D_CAP_READ (R155): one byte is read and appended and the settling delay begins, or the burst has ended. -/
def execDCapRead (s : State) : Out :=
  whenSelected 0b100 s <|
    if rxAvail s then
      withRxRead s fun b t => andThen (appendByte b t) fun u => .next (counted 0 { u with timer := u.cfg.tSettle })
    else .next (counted 0 { s with phase := .evaluating })

/-- D_CAP_SETTLE (R156). -/
def execDCapSettle (s : State) : Out := whenSelected 0b101 s (.next (sleepTick s))

/-- D_EVAL (R157): the outcome steers nothing. -/
def execDEval (s : State) : Out :=
  whenSelected 0b110 s <| andThen (evaluateFrame s) fun t => .next (counted 0 { t with phase := .servicing })

/-- The one enabled dispatcher step (R151, R167); `{phase, tnz}` 001 and 111 have none (spec/30_encoding.md R102). -/
def dispatcherStep (s : State) : Out :=
  match s.phase, s.timer with
  | .servicing, 0 => execDService s
  | .servicing, _ + 1 => .fault .stuckDsel
  | .waiting, 0 => execDWaitPoll s
  | .waiting, _ + 1 => execDWaitSleep s
  | .capturing, 0 => execDCapRead s
  | .capturing, _ + 1 => execDCapSettle s
  | .evaluating, 0 => execDEval s
  | .evaluating, _ + 1 => .fault .stuckDsel

/-- `n` dispatcher steps, stopping at the first stop. -/
def dispatcherSteps : Nat → State → Out
  | 0, s => .next s
  | n + 1, s => andThen (dispatcherStep s) (dispatcherSteps n)

end Sys2Proof.Machine
end

