-- ==== Sys2Proof/Machine/Boundary.lean ====
section
/-! DEFINITION. The moves of the surroundings: DELIVER and POST (spec/43_boundary.md R201, R206), the text channel's
commands (spec/30_encoding.md R105), STEP (R110) and RESET (spec/70_reset_and_hazards.md R260). -/

namespace Sys2Proof.Machine

open Sys2Proof

/-- DELIVER (R201). A launch whose link could not be opened has no DELIVER (R204; log entry 17). -/
def execDeliver (b : Byte) (s : State) : Out :=
  if s.cfg.linkOk then
    if hasRoom s.cfg.rxqDepth s.rxq.length then .next { s with rxq := s.rxq ++ [b] } else .refused .rxqFull
  else .refused .byteSourceClosed

/-- POST (R206). -/
def execPost (p : Nat) (k : Kind) (s : State) : Out := postRequest p k s

/-- CMD_DATA: the adapter posts DATA on the text channel's port (spec/30_encoding.md R105; log entry 12). -/
def execCmdData (_line : Line) (s : State) : Out := postRequest s.cfg.textPort .data s

/-- CMD_STATUS: the adapter posts STATUS (R105; log entry 12). -/
def execCmdStatus (_line : Line) (s : State) : Out := postRequest s.cfg.textPort .status s

/-- CMD_OTHER: the adapter posts HELP (R105; log entry 12). -/
def execCmdOther (_line : Line) (s : State) : Out := postRequest s.cfg.textPort .help s

/-- STEP (spec/30_encoding.md R110): the one enabled dispatcher step, `n` times (log entry 21). -/
def execStep (n : Nat) (s : State) : Out := dispatcherSteps n s

/-- The block after reset (spec/70_reset_and_hazards.md R260, spec/10_state.md R41); the boundary queues stay. -/
def resetBlock (s : State) : State :=
  let t : State :=
    { clearFrame s with
      reading := s.cfg.readingReset
      lastOutcome := .never
      phase := .servicing
      timer := 0
      trace := []
      now := 0
      steps := 0
      opResult := none }
  if s.cfg.linkOk then t else emit .linkError t

/-- RESET (R260). -/
def execReset (s : State) : Out := .next (resetBlock s)

end Sys2Proof.Machine
end

