-- ==== Sys2Proof/Machine/Cache.lean ====
section
/-! DEFINITION. The Reading Cache's operations (spec/42_cache.md). -/

namespace Sys2Proof.Machine

open Sys2Proof

/-- The operation GET: it returns `reading` and writes no state of the block (R190; log entry 13). -/
def execGet (s : State) : Out := .next { s with opResult := some (.value (getReading s)) }

/-- The operation SET (R191). -/
def execSet (v : Reading) (s : State) : Out := .next (setReading v s)

end Sys2Proof.Machine
end

