-- ==== Sys2Proof/Machine/Dispatch.lean ====
section
/-! DEFINITION. One arm per instruction, each one call of its meaning. -/

namespace Sys2Proof.Machine

open Sys2Proof

def exec (i : Instr) (s : State) : Host.Outcome State Fault Refusal :=
  match i with
  | .pm25Report pm25 trailer => Sys2Proof.Machine.execPm25Report pm25 trailer s
  | .dService => Sys2Proof.Machine.execDService s
  | .dWaitPoll => Sys2Proof.Machine.execDWaitPoll s
  | .dWaitSleep => Sys2Proof.Machine.execDWaitSleep s
  | .dCapRead => Sys2Proof.Machine.execDCapRead s
  | .dCapSettle => Sys2Proof.Machine.execDCapSettle s
  | .dEval => Sys2Proof.Machine.execDEval s
  | .idle => Sys2Proof.Machine.execIdle s
  | .append b => Sys2Proof.Machine.execAppend b s
  | .evaluate => Sys2Proof.Machine.execEvaluate s
  | .get => Sys2Proof.Machine.execGet s
  | .set v => Sys2Proof.Machine.execSet v s
  | .serviceAll => Sys2Proof.Machine.execServiceAll s
  | .reqData p => Sys2Proof.Machine.execReqData p s
  | .reqStatus p => Sys2Proof.Machine.execReqStatus p s
  | .reqHelp p => Sys2Proof.Machine.execReqHelp p s
  | .reqPage p => Sys2Proof.Machine.execReqPage p s
  | .reqValue p => Sys2Proof.Machine.execReqValue p s
  | .cmdData line => Sys2Proof.Machine.execCmdData line s
  | .cmdStatus line => Sys2Proof.Machine.execCmdStatus line s
  | .cmdOther line => Sys2Proof.Machine.execCmdOther line s
  | .deliver b => Sys2Proof.Machine.execDeliver b s
  | .post p k => Sys2Proof.Machine.execPost p k s
  | .step n => Sys2Proof.Machine.execStep n s
  | .reset => Sys2Proof.Machine.execReset s

end Sys2Proof.Machine
end

