-- ==== Sys2Proof/Machine/Fetch.lean ====
section
/-! DEFINITION. Where the next instruction comes from: the surroundings' next move when one is pending, else the
dispatcher select that the state itself gives (spec/30_encoding.md R102, R110; log entry 5). `place` is the reverse: the
state arranged so that a given code word is what runs next (log entry 7). -/

namespace Sys2Proof.Machine

open Sys2Proof

/-- The moves that are due: those pending, else those of a repeating supply. -/
def State.pending (s : State) : List Move :=
  match s.script with
  | m :: ms => m :: ms
  | [] =>
    match s.supply with
    | .silent => []
    | .cycle ms => ms
    | .free _ => []

/-- An offer as a move, where the spec enables it (spec/43_boundary.md R201, R204, R206, R209). -/
def State.offer (s : State) : Offer → Option Instr
  | .deliver b => if s.cfg.linkOk && hasRoom s.cfg.rxqDepth s.rxq.length then some (.deliver b) else none
  | .post p k => if p < s.nfe ∧ hasRoom s.cfg.feqDepth (s.queue p).length = true then some (.post p k) else none
  | .reset => some .reset

/-- The move of a free supply at this turn, if there is an enabled one (log entry 29). -/
def State.offered (s : State) : Option Instr :=
  match s.supply with
  | .silent => none
  | .cycle _ => none
  | .free n => (Config.surroundings n).bind s.offer

/-- No move of the surroundings is due: the next step is the dispatcher's own. -/
def State.dispatcherTurn (s : State) : Prop := s.pending = [] ∧ s.offered = none

/-- The instruction that runs next. With no move due it is the dispatcher's own step, which the state alone selects:
there is no fetched opcode (R102). A request on a route is posted by the HTTP-style adapter (R107; log entry 12). -/
def nextInstr (s : State) : Decoded :=
  match s.pending with
  | [] =>
    match s.offered with
    | some i => .instr i
    | none => decode (.dsel s.dsel)
  | .word w :: _ => decode (.stim12 w)
  | .request p k :: _ => .instr (.post p k)
  | .line l :: _ => decode (.text l)
  | .route r :: _ => .instr (.post s.cfg.httpPort (routeKind r))

/-- A free supply goes on to its next turn. -/
def Supply.next : Supply → Supply
  | .silent => .silent
  | .cycle ms => .cycle ms
  | .free n => .free (n + 1)

/-- The state once this turn is taken: the due move is no longer pending, or a free supply has had its turn. -/
def taken (s : State) : State :=
  { s with script := s.pending.tail, supply := if s.pending = [] then s.supply.next else s.supply }

/-- What happens when nothing decodes: a select with no step is a stuck state (R102, U16), a reserved script word is
refused (R112, U20). -/
def rejected (s : State) : Out :=
  match s.pending with
  | [] => .fault .stuckDsel
  | _ :: _ => .refused .reservedWord

/-- The phase of a 2-bit code (spec/30_encoding.md R100). -/
def Phase.ofCode (c : BitVec 2) : Phase :=
  match c.toNat with
  | 0 => .servicing
  | 1 => .waiting
  | 2 => .capturing
  | _ => .evaluating

/-- The dispatcher on its own at the step a select names. -/
def State.atDsel (s : State) (c : BitVec 3) : State :=
  { s with script := [], supply := .silent, phase := Phase.ofCode (c.extractLsb' 1 2), timer := (c.extractLsb' 0 1).toNat }

/-- The state in which a dispatcher step issues this operation next (R103). -/
def State.atOp (s : State) (c : BitVec 3) (operand : BitVec 16) : State :=
  match c.toNat with
  | 0 => s.atDsel 0b011
  | 1 => { s.atDsel 0b100 with rxq := operand.extractLsb' 0 8 :: s.rxq }
  | 2 => s.atDsel 0b110
  | 3 => { s.atDsel 0b000 with feq := s.feq.set 0 (.data :: s.queue 0) }
  | 4 => (s.atDsel 0b110).holding (header ++ operand ++ 0#104)
  | _ => s.atDsel 0b000

/-- The state in which this code word is what runs next (log entry 7): a move is made pending, a dispatcher select is
the state's own, and an operation, a request or a frame stands where the dispatcher's next step takes it. -/
def State.place (s : State) : CodeWord → State
  | .frame20 f => (s.atDsel 0b110).holding f
  | .dsel c => s.atDsel c
  | .op3 c operand => s.atOp c operand
  | .kind3 c port =>
    match Kind.ofCode c with
    | some k => { s.atDsel 0b000 with feq := s.feq.set port (k :: s.queue port) }
    | none => s
  | .text l => { s with script := .line l :: s.script }
  | .stim12 w => { s with script := .word w :: s.script }

end Sys2Proof.Machine
end

