-- ==== Sys2Proof/Machine/Step.lean ====
section
/-! DEFINITION. One step of the machine: fetch, decode, execute. -/

namespace Sys2Proof.Machine

open Sys2Proof

/-- The next move of the surroundings if one is due, else the dispatcher's own step (spec/20_memory.md R70). -/
def step (s : State) : Host.Outcome State Fault Refusal :=
  match nextInstr s with
  | .instr i => exec i (taken s)
  | .reject _ => rejected s

/-- The state in which the table word `w` of `nbits` bits is what runs next (log entries 6, 7). -/
def State.withFetchWord (s : State) (nbits w : Nat) : State :=
  match tableWord nbits w with
  | some c => s.place c
  | none => s

end Sys2Proof.Machine
end

