-- ==== Sys2Proof/Machine/Ports.lean ====
section
/-! DEFINITION. The block's ports (spec/10_state.md R36, R37) as functions: the levels of the state, the strobe of a read,
and the one-cycle pulses of each event (R40). -/

namespace Sys2Proof.Machine

open Sys2Proof

/-- `rx_data`: the oldest byte, meaningful only while `rx_avail` is 1 (R36). -/
def rxData (s : State) : Option Byte := s.rxq.head?

/-- `rx_rd` of the dispatcher step a state selects: raised by a D_CAP_READ that finds a byte and by no other (R37). -/
def rxRd (s : State) : Bool := decide (s.dsel = 0b100) && rxAvail s

/-- `fe_pending[p]`: a request waits on port `p` (R36). -/
def fePending (s : State) (p : Nat) : Bool := !(s.queue p).isEmpty

/-- `fe_kind[p]`: the oldest request's kind code, meaningful only while `fe_pending[p]` is 1 (R36). -/
def feKind (s : State) (p : Nat) : Option (BitVec 3) := (s.queue p).head?.map Kind.code

/-- The always-driven outputs (R36). -/
structure StatusPorts where
  phase : BitVec 2
  length : BitVec 5
  lastOutcome : BitVec 2
  reading : Reading
deriving DecidableEq, Repr

/-- The always-driven outputs in a state (R36, spec/60_exceptions.md R255). -/
def statusPorts (s : State) : StatusPorts where
  phase := s.phase.code
  length := s.length
  lastOutcome := s.lastOutcome.code
  reading := s.reading

/-- The pulse outputs in one clock cycle; a port's value is meaningful only with its valid line (R36). -/
structure PulsePorts where
  /-- `fe_take[p]` and `rsp_valid[p]`, which pulse together: the port and `rsp_kind[p]`, `rsp_value[p]`. -/
  rsp : Option (Nat × BitVec 3 × Reading) := none
  /-- `echo_valid` with `echo_value`. -/
  echo : Option Reading := none
  /-- `eval_valid` with `eval_outcome`. -/
  eval : Option (BitVec 2) := none
  overrun : Bool := false
  linkErr : Bool := false
deriving DecidableEq, Repr

/-- One event's pulses, alone in a clock cycle of its own; `rsp_value` is zero for HELP (R36, R40). DESIGN CHOICE (log entry
27): the spec does not say whether two events of one dispatcher step share a cycle. -/
def Event.pulses : Event → PulsePorts
  | .response p k v => { rsp := some (p, k.code, v.getD 0) }
  | .echo v => { echo := some v }
  | .eval t => { eval := some t.code }
  | .overrun => { overrun := true }
  | .linkError => { linkErr := true }

/-- The pulses the outputs have shown since reset, one cycle per event in the order of the trace (R40). DESIGN CHOICE (log
entry 27): whether the Echo and Eval of one D_EVAL, or the responses of one pass, pulse in the same cycle is left open;
only their order in the trace is the spec's. -/
def pulseTrace (s : State) : List PulsePorts := s.trace.map Event.pulses

/-- The events a front end is given; Echo, Eval, Overrun and LinkError reach none (R40, spec/60_exceptions.md R234). -/
def Event.toFrontEnd (p : Nat) : Event → Option (Kind × Option Reading)
  | .response q k v => if q = p then some (k, v) else none
  | .echo _ => none
  | .eval _ => none
  | .overrun => none
  | .linkError => none

/-- The answers port `p` has been given since reset, in order. -/
def answers (s : State) (p : Nat) : List (Kind × Option Reading) := s.trace.filterMap (Event.toFrontEnd p)

end Sys2Proof.Machine
end

