-- ==== Sys2Proof/Safety.lean ====
section
/-! DEFINITION. What holds of the machine in every state a run reaches: the invariants of spec/10_state.md R33, and the
words in which statements speak of runs. -/

namespace Sys2Proof.Machine

open Sys2Proof

/-- The invariants I-a to I-d of spec/10_state.md R33, with the canonical form of the frame space. -/
structure State.Inv (s : State) : Prop where
  /-- The list of cells is canonical. -/
  canonical : Memory.wf s.buf = true
  /-- I-a: the fill count never exceeds the capacity. -/
  fill : s.length.toNat ≤ 20
  /-- I-b: every cell at or above the fill count holds 0x00. -/
  aboveFill : ∀ a, s.length.toNat ≤ a → readCell s.buf a = 0
  /-- I-c: no delay runs in SERVICING or EVALUATING. -/
  noDelay : s.phase = .servicing ∨ s.phase = .evaluating → s.timer = 0
  /-- I-c: the sleep is at most `T_YIELD`. -/
  sleep : s.phase = .waiting → s.timer ≤ s.cfg.tYield
  /-- I-c: the settling delay is at most `T_SETTLE`. -/
  settle : s.phase = .capturing → s.timer ≤ s.cfg.tSettle
  /-- I-d: the buffer is empty in SERVICING and WAITING. -/
  drained : s.phase = .servicing ∨ s.phase = .waiting → s.length = 0 ∧ s.buf = []

/-- The answers a service pass gives port `p` for the requests `ks`, all with the same reading
(spec/41_dispatch.md R160, spec/43_boundary.md R208). -/
def portAnswers (v : Reading) (p : Nat) (ks : List Kind) : List Event :=
  ks.map fun k => .response p k (if k = .help then none else some v)

/-- The answers of a service pass over the queues `qs` of the ports from `p` on, ascending (R160). -/
def passAnswers (v : Reading) : Nat → List (List Kind) → List Event
  | _, [] => []
  | p, ks :: qs => portAnswers v p ks ++ passAnswers v (p + 1) qs

/-- Two states that differ at most in what the spec says steers nothing: the outcome register, the trace, the counts and
the model's record of an operation's result (spec/10_state.md R21, R27). -/
def sameButRecords (s t : State) : Prop :=
  t = { s with lastOutcome := t.lastOutcome, trace := t.trace, now := t.now, steps := t.steps, opResult := t.opResult }

/-- The machine answered a next state. -/
def answersNext (o : Out) : Prop := ∃ t, o = .next t

/-- `n` steps of the machine, the surroundings' moves among them, stopping at the first stop. -/
def machineSteps : Nat → State → Out
  | 0, s => .next s
  | n + 1, s => andThen (step s) (machineSteps n)

/-- The bytes appended one after another (spec/40_framer.md R137). -/
def appendAll : List Byte → State → Out
  | [], s => .next s
  | b :: bs, s => andThen (exec (.append b) s) (appendAll bs)

end Sys2Proof.Machine
end

