-- ==== Sys2Proof/Certificates/Slice0/Obligations.lean ====
section
/-! DEFINITION. The statements for the provers. Each docstring names the rule of spec/ it formalises. -/

open Sys2Proof Sys2Proof.Machine

/-! ### Fetch, decode and the machine's step -/

/-- What runs next is decoded and executed: on the dispatcher's turn the select of the state (spec/30_encoding.md R102),
else the move of the surroundings that is due, which is one of a free supply where that offers an enabled one (log entries
5, 29: the turns are the model's own). -/
def Obligations.StepRunsTheDecodedInstruction : Prop :=
  (∀ (s : State) (i : Instr), s.dispatcherTurn →
    decode (.dsel (s.phase.code ++ if s.timer = 0 then 0#1 else 1#1)) = .instr i →
    step s = exec i { s with supply := s.supply.next }) ∧
  (∀ (s : State) (w : BitVec 12) (rest : List Move) (i : Instr), s.pending = .word w :: rest →
    decode (.stim12 w) = .instr i → step s = exec i { s with script := rest }) ∧
  (∀ (s : State) (l : Line) (rest : List Move) (i : Instr), s.pending = .line l :: rest →
    decode (.text l) = .instr i → step s = exec i { s with script := rest }) ∧
  (∀ (s : State) (p : Nat) (k : Kind) (rest : List Move), s.pending = .request p k :: rest →
    step s = exec (.post p k) { s with script := rest }) ∧
  (∀ (s : State) (r : Route) (rest : List Move), s.pending = .route r :: rest →
    step s = exec (.post s.cfg.httpPort (match r with | .readablePage => .page | .bareValue => .value))
      { s with script := rest }) ∧
  (∀ (s : State) (n : Nat) (i : Instr), s.pending = [] → s.supply = .free n → decode (.dsel s.dsel) = .instr i →
    step s = exec (((Config.surroundings n).bind s.offer).getD i) { s with supply := .free (n + 1) })

/-- A select with no step is stuck and a reserved script word is refused (spec/30_encoding.md R102, R112; that the run
stops there is the model's, log entries 5 and 8). -/
def Obligations.ReservedWordsStopTheRun : Prop :=
  (∀ s : State, s.dispatcherTurn → (s.phase = .servicing ∨ s.phase = .evaluating) → s.timer ≠ 0 →
    step s = .fault .stuckDsel) ∧
  (∀ (s : State) (w : BitVec 12) (rest : List Move) (e : DecodeError), s.pending = .word w :: rest →
    decode (.stim12 w) = .reject e → step s = .refused .reservedWord)

/-- The step `{phase, timer != 0}` selects (spec/30_encoding.md R102; the enabling conditions of spec/41_dispatch.md R152
to R157, from which the spec infers its R151). -/
def Obligations.EachSelectRunsItsStep : Prop :=
  ∀ s : State, s.dispatcherTurn →
    (s.phase = .servicing → s.timer = 0 → step s = exec .dService (taken s)) ∧
    (s.phase = .waiting → s.timer = 0 → step s = exec .dWaitPoll (taken s)) ∧
    (s.phase = .waiting → 0 < s.timer → step s = exec .dWaitSleep (taken s)) ∧
    (s.phase = .capturing → s.timer = 0 → step s = exec .dCapRead (taken s)) ∧
    (s.phase = .capturing → 0 < s.timer → step s = exec .dCapSettle (taken s)) ∧
    (s.phase = .evaluating → s.timer = 0 → step s = exec .dEval (taken s))

/-- A dispatcher step that the state does not select is refused (the model's choice, log entry 10; the enabling
conditions are those of R152 to R157). -/
def Obligations.DisabledStepsAreRefused : Prop :=
  ∀ s : State,
    (¬(s.phase = .servicing ∧ s.timer = 0) → exec .dService s = .refused .stepNotEnabled) ∧
    (¬(s.phase = .waiting ∧ s.timer = 0) → exec .dWaitPoll s = .refused .stepNotEnabled) ∧
    (¬(s.phase = .waiting ∧ s.timer ≠ 0) → exec .dWaitSleep s = .refused .stepNotEnabled) ∧
    (¬(s.phase = .capturing ∧ s.timer = 0) → exec .dCapRead s = .refused .stepNotEnabled) ∧
    (¬(s.phase = .capturing ∧ s.timer ≠ 0) → exec .dCapSettle s = .refused .stepNotEnabled) ∧
    (¬(s.phase = .evaluating ∧ s.timer = 0) → exec .dEval s = .refused .stepNotEnabled)

/-! ### The service of requests -/

/-- SERVICE_ALL (spec/41_dispatch.md R160): every request queued is answered, ports ascending, oldest first, all with the
reading at that instant; every queue is empty and nothing else changes. -/
def Obligations.ServiceAllAnswersEveryQueuedRequest : Prop :=
  ∀ s : State, exec .serviceAll s =
    .next { s with feq := s.feq.map fun _ => [], trace := s.trace ++ passAnswers s.reading 0 s.feq }

/-- Each port is given one answer per request, in the order posted (spec/20_memory.md R72, spec/43_boundary.md R208). -/
def Obligations.EachPortIsAnsweredOnceInOrder : Prop :=
  ∀ (s t : State), exec .serviceAll s = .next t → ∀ p, p < s.feq.length →
    answers t p = answers s p ++ (s.queue p).map fun k => (k, if k = .help then none else some s.reading)

/-- REQ_DATA, REQ_STATUS, REQ_HELP, REQ_PAGE, REQ_VALUE: SERVE on a port that exists (spec/43_boundary.md R207). -/
def Obligations.RequestsAreAnsweredByKind : Prop :=
  ∀ (s : State) (p : Nat), p < s.feq.length →
    exec (.reqData p) s = .next { s with trace := s.trace ++ [.response p .data (some s.reading)] } ∧
    exec (.reqStatus p) s = .next { s with trace := s.trace ++ [.response p .status (some s.reading)] } ∧
    exec (.reqHelp p) s = .next { s with trace := s.trace ++ [.response p .help none] } ∧
    exec (.reqPage p) s = .next { s with trace := s.trace ++ [.response p .page (some s.reading)] } ∧
    exec (.reqValue p) s = .next { s with trace := s.trace ++ [.response p .value (some s.reading)] }

/-- A post on a port at or above NFE is refused (spec/30_encoding.md R112, spec/43_boundary.md R206), and so is a text
command whose channel's port is absent (the model's reading of R105, log entry 12). That a request instruction is refused
there too is the model's choice (log entry 25): the spec gives SERVE over the ports there are. -/
def Obligations.AbsentPortsAreRefused : Prop :=
  (∀ (s : State) (p : Nat) (k : Kind), s.feq.length ≤ p → exec (.post p k) s = .refused .noSuchPort) ∧
  (∀ (s : State) (line : Line), s.feq.length ≤ s.cfg.textPort →
    exec (.cmdData line) s = .refused .noSuchPort ∧ exec (.cmdStatus line) s = .refused .noSuchPort ∧
    exec (.cmdOther line) s = .refused .noSuchPort) ∧
  (∀ (s : State) (p : Nat), s.feq.length ≤ p →
    exec (.reqData p) s = .refused .noSuchPort ∧ exec (.reqStatus p) s = .refused .noSuchPort ∧
    exec (.reqHelp p) s = .refused .noSuchPort ∧ exec (.reqPage p) s = .refused .noSuchPort ∧
    exec (.reqValue p) s = .refused .noSuchPort)

/-! ### The dispatcher's steps -/

/-- D_SERVICE (spec/41_dispatch.md R152). The counts of ticks and steps are the model's own (log entry 14). -/
def Obligations.ServiceStepServesThenWaits : Prop :=
  ∀ s : State, s.phase = .servicing → s.timer = 0 → exec .dService s =
    .next { s with
      feq := s.feq.map fun _ => []
      trace := s.trace ++ passAnswers s.reading 0 s.feq
      phase := .waiting
      steps := s.steps + 1 }

/-- D_WAIT_POLL (spec/41_dispatch.md R153): an available byte ends the wait and no request is served; otherwise a
service pass and the sleep begins. The counts of ticks and steps are the model's own (log entry 14). -/
def Obligations.PollPrefersTheByte : Prop :=
  ∀ s : State, s.phase = .waiting → s.timer = 0 →
    (s.rxq ≠ [] → exec .dWaitPoll s = .next { s with phase := .capturing, steps := s.steps + 1 }) ∧
    (s.rxq = [] → exec .dWaitPoll s =
      .next { s with
        feq := s.feq.map fun _ => []
        trace := s.trace ++ passAnswers s.reading 0 s.feq
        timer := s.cfg.tYield
        steps := s.steps + 1 })

/-- D_WAIT_SLEEP and D_CAP_SETTLE (spec/41_dispatch.md R154, R156): one tick, and nothing polled, read or served. The
counts of ticks and steps are the model's own (log entry 14). -/
def Obligations.SleepsCountDownOneTick : Prop :=
  (∀ s : State, s.phase = .waiting → 0 < s.timer → exec .dWaitSleep s =
    .next { s with timer := s.timer - 1, now := s.now + 1, steps := s.steps + 1 }) ∧
  (∀ s : State, s.phase = .capturing → 0 < s.timer → exec .dCapSettle s =
    .next { s with timer := s.timer - 1, now := s.now + 1, steps := s.steps + 1 })

/-- D_CAP_READ with a byte available (spec/41_dispatch.md R155, spec/40_framer.md R131): it leaves the queue and is
stored at the fill count, or refused at capacity; the settling delay begins. The counts of ticks and steps are the
model's own (log entry 14). -/
def Obligations.CaptureReadsOneByte : Prop :=
  ∀ (s : State) (b : Byte) (rest : List Byte), s.phase = .capturing → s.timer = 0 → s.rxq = b :: rest →
    Memory.wf s.buf = true →
    (s.length.toNat < 20 → ∃ cells, exec .dCapRead s =
        .next { s with
          buf := cells, length := s.length + 1, rxq := rest, timer := s.cfg.tSettle, steps := s.steps + 1 } ∧
      readCell cells s.length.toNat = b ∧ ∀ a, a ≠ s.length.toNat → readCell cells a = readCell s.buf a) ∧
    (s.length.toNat = 20 → exec .dCapRead s =
        .next { s with
          buf := [], length := 0, rxq := rest, timer := s.cfg.tSettle, trace := s.trace ++ [.overrun]
          steps := s.steps + 1 })

/-- D_CAP_READ with no byte available ends the burst and changes nothing else (spec/41_dispatch.md R155). The counts
of ticks and steps are the model's own (log entry 14). -/
def Obligations.CaptureEndsAtAnEmptyPoll : Prop :=
  ∀ s : State, s.phase = .capturing → s.timer = 0 → s.rxq = [] →
    exec .dCapRead s = .next { s with phase := .evaluating, steps := s.steps + 1 }

/-- D_CAP_READ issues the operation APPEND on the byte it reads (spec/30_encoding.md R103, spec/41_dispatch.md R155).
The counts of ticks and steps are the model's own (log entry 14). -/
def Obligations.CaptureReadIssuesAppend : Prop :=
  ∀ (s : State) (b : Byte) (rest : List Byte), s.phase = .capturing → s.timer = 0 → s.rxq = b :: rest →
    exec .dCapRead s = andThen (exec (.append b) { s with rxq := rest }) fun t =>
      .next { t with timer := s.cfg.tSettle, steps := s.steps + 1 }

/-- D_EVAL issues the operation EVALUATE and goes to SERVICING whatever its outcome (spec/41_dispatch.md R157). That
the step leaves `opResult` alone and a bare EVALUATE records its tag there is the model's choice (log entry 13), as
the count of steps is the model's own (log entry 14). -/
def Obligations.EvaluationStepGoesToServicing : Prop :=
  ∀ s : State, s.phase = .evaluating → s.timer = 0 → s.length.toNat ≤ 20 → ∃ t, exec .evaluate s = .next t ∧
    exec .dEval s = .next { t with opResult := s.opResult, phase := .servicing, steps := s.steps + 1 }

/-! ### The framer's operations -/

/-- APPEND below capacity (spec/40_framer.md R131): the byte is stored at the fill count, which grows by one; every other
cell and everything else is as before. -/
def Obligations.AppendStoresAtTheFillCount : Prop :=
  ∀ (s : State) (b : Byte), Memory.wf s.buf = true → s.length.toNat < 20 → ∃ cells,
    exec (.append b) s = .next { s with buf := cells, length := s.length + 1 } ∧
    readCell cells s.length.toNat = b ∧ ∀ a, a ≠ s.length.toNat → readCell cells a = readCell s.buf a

/-- APPEND at capacity (spec/40_framer.md R131): the byte is refused, the buffer emptied, Overrun emitted. -/
def Obligations.AppendRefusesAtCapacity : Prop :=
  ∀ (s : State) (b : Byte), s.length.toNat = 20 →
    exec (.append b) s = .next { s with buf := [], length := 0, trace := s.trace ++ [.overrun] }

/-- A fill count of 21 to 31, which no run reaches, is stuck (spec/93_implementation_defined.md U17; log entry 9). -/
def Obligations.IllegalFillCountIsStuck : Prop :=
  ∀ (s : State) (b : Byte), 20 < s.length.toNat →
    exec (.append b) s = .fault .stuckLength ∧ exec .evaluate s = .fault .stuckLength

/-- EVALUATE of a report (spec/40_framer.md R132, spec/30_encoding.md R93): SET, Echo, clear, outcome VALID. That
the returned tag is recorded in `opResult` is the model's choice (log entry 13). -/
def Obligations.EvaluateAcceptsAReport : Prop :=
  ∀ s : State, s.length.toNat = 20 → readCell s.buf 0 = 0x16 → readCell s.buf 1 = 0x11 → readCell s.buf 2 = 0x0B →
    readCell s.buf 3 = 0x00 → readCell s.buf 4 = 0x00 →
    let v : Reading := BitVec.ofNat 16 (256 * (readCell s.buf 5).toNat + (readCell s.buf 6).toNat)
    exec .evaluate s = .next { s with
      buf := [], length := 0, reading := v, lastOutcome := .tag .valid
      trace := s.trace ++ [.echo v, .eval .valid], opResult := some (.outcome .valid) }

/-- EVALUATE of 20 bytes with any other header discards them (spec/30_encoding.md R95, spec/40_framer.md R132). That
the returned tag is recorded in `opResult` is the model's choice (log entry 13). -/
def Obligations.EvaluateDiscardsAnyOtherHeader : Prop :=
  ∀ s : State, s.length.toNat = 20 →
    ¬(readCell s.buf 0 = 0x16 ∧ readCell s.buf 1 = 0x11 ∧ readCell s.buf 2 = 0x0B ∧ readCell s.buf 3 = 0x00 ∧
      readCell s.buf 4 = 0x00) →
    exec .evaluate s = .next { s with
      buf := [], length := 0, lastOutcome := .tag .headerMismatch
      trace := s.trace ++ [.eval .headerMismatch], opResult := some (.outcome .headerMismatch) }

/-- EVALUATE of fewer than 20 bytes discards them, whatever they are (spec/60_exceptions.md R232). That the returned
tag is recorded in `opResult` is the model's choice (log entry 13). -/
def Obligations.EvaluateDiscardsAShortCapture : Prop :=
  ∀ s : State, s.length.toNat < 20 → exec .evaluate s = .next { s with
    buf := [], length := 0, lastOutcome := .tag .incomplete
    trace := s.trace ++ [.eval .incomplete], opResult := some (.outcome .incomplete) }

/-- PM25_REPORT (spec/40_framer.md R132; log entry 20): the decoder accepts the frame; its trailer is ignored. -/
def Obligations.ReportIsAccepted : Prop :=
  ∀ (s : State) (v : Reading) (trailer : BitVec 104), exec (.pm25Report v trailer) s = .next { s with
    buf := [], length := 0, reading := v, lastOutcome := .tag .valid, trace := s.trace ++ [.echo v, .eval .valid] }

/-- EVALUATE on a buffer that holds a frame agrees with the frame's decoding (spec/30_encoding.md R91, R92). That
the returned tag is recorded in `opResult` is the model's choice (log entry 13). -/
def Obligations.EvaluateAgreesWithTheFrameDecoder : Prop :=
  ∀ (s : State) (f : FrameBits),
    (∀ i, decode (.frame20 f) = .instr i → exec .evaluate (s.holding f) =
      andThen (exec i s) fun t => .next { t with opResult := some (.outcome .valid) }) ∧
    (∀ e, decode (.frame20 f) = .reject e → exec .evaluate (s.holding f) = .next { s with
      buf := [], length := 0, lastOutcome := .tag .headerMismatch
      trace := s.trace ++ [.eval .headerMismatch], opResult := some (.outcome .headerMismatch) })

/-- Bytes 7 to 19 of a frame change nothing (spec/30_encoding.md R95 d). -/
def Obligations.TrailerIsIgnored : Prop :=
  ∀ (s : State) (cells : List Host.Cell), (∀ a, a < 7 → readCell cells a = readCell s.buf a) →
    exec .evaluate { s with buf := cells } = exec .evaluate s

/-- The reading is the two bytes at offsets 5 and 6, the first the more significant (spec/30_encoding.md R93,
spec/20_memory.md R62). -/
def Obligations.ReadingIsBigEndian : Prop :=
  ∀ m : List Host.Cell,
    (frameReading m).toNat = 256 * (readCell m 5).toNat + (readCell m 6).toNat ∧ frameReading m = memBits m 5 2

/-- MemRead and MemWrite (spec/00_scope.md R12): what was written is read back, other cells stand, and there is no cell
outside 0 to 19 (that such an access stops is the model's, log entry 9). -/
def Obligations.MemReadAfterMemWrite : Prop :=
  ∀ (s : State) (a n : Nat) (v : BitVec (8 * n)), Memory.wf s.buf = true →
    (a + n ≤ 20 → ∃ cells, memWrite s a n v = .next { s with buf := cells } ∧
      memRead { s with buf := cells } a n = some v ∧
      ∀ c, c < a ∨ a + n ≤ c → readCell cells c = readCell s.buf c) ∧
    (20 < a + n → memWrite s a n v = .fault .noSuchCell ∧ memRead s a n = none)

/-! ### The Reading Cache, IDLE and RxRead -/

/-- GET returns `reading` and writes no state of the block; IDLE issues no operation (spec/42_cache.md R190,
spec/30_encoding.md R103; the returned value's place is the model's, log entry 13). -/
def Obligations.GetAndIdleWriteNothing : Prop :=
  ∀ s : State, exec .get s = .next { s with opResult := some (.value s.reading) } ∧ exec .idle s = .next s

/-- SET (spec/42_cache.md R191). -/
def Obligations.SetWritesTheReading : Prop :=
  ∀ (s : State) (v : Reading), exec (.set v) s = .next { s with reading := v }

/-- RxRead of an empty queue is refused, never given a value (spec/43_boundary.md R203). -/
def Obligations.EmptyRxReadIsRefused : Prop :=
  ∀ (s : State) (k : Byte → State → Out),
    (s.rxq = [] → withRxRead s k = .refused .rxReadEmpty) ∧
    (∀ b rest, s.rxq = b :: rest → withRxRead s k = k b { s with rxq := rest })

/-! ### The moves of the surroundings -/

/-- DELIVER (spec/43_boundary.md R201). -/
def Obligations.DeliverQueuesTheByte : Prop :=
  ∀ (s : State) (b : Byte), s.cfg.linkOk = true → (∀ d, s.cfg.rxqDepth = some d → s.rxq.length < d) →
    exec (.deliver b) s = .next { s with rxq := s.rxq ++ [b] }

/-- DELIVER, POST and the text commands where they are not enabled: a closed link, or a bounded queue that is full (the
model's refusals, log entries 11, 12 and 17; spec/43_boundary.md R201, R204, R206). -/
def Obligations.MovesAreRefusedWhenNotEnabled : Prop :=
  ∀ (s : State) (b : Byte),
    (s.cfg.linkOk = false → exec (.deliver b) s = .refused .byteSourceClosed) ∧
    (s.cfg.linkOk = true → ∀ d, s.cfg.rxqDepth = some d → d ≤ s.rxq.length →
      exec (.deliver b) s = .refused .rxqFull) ∧
    (∀ p k d, p < s.feq.length → s.cfg.feqDepth = some d → d ≤ (s.queue p).length →
      exec (.post p k) s = .refused .feqFull) ∧
    (∀ line d, s.cfg.textPort < s.feq.length → s.cfg.feqDepth = some d → d ≤ (s.queue s.cfg.textPort).length →
      exec (.cmdData line) s = .refused .feqFull ∧ exec (.cmdStatus line) s = .refused .feqFull ∧
      exec (.cmdOther line) s = .refused .feqFull)

/-- POST (spec/43_boundary.md R206): the request joins the end of its port's queue; nothing else changes. -/
def Obligations.PostQueuesTheRequest : Prop :=
  ∀ (s : State) (p : Nat) (k : Kind), p < s.feq.length →
    (∀ d, s.cfg.feqDepth = some d → (s.queue p).length < d) → ∃ queues,
      exec (.post p k) s = .next { s with feq := queues } ∧ queues.length = s.feq.length ∧
      queues[p]? = some (s.queue p ++ [k]) ∧ ∀ q, q ≠ p → queues[q]? = s.feq[q]?

/-- The text commands post their kinds on the text channel's port (spec/30_encoding.md R105; the port is the model's
reading of spec/43_boundary.md R205, log entry 12). -/
def Obligations.TextCommandsPostTheirKind : Prop :=
  ∀ (s : State) (line : Line), s.cfg.textPort < s.feq.length →
    (∀ d, s.cfg.feqDepth = some d → (s.queue s.cfg.textPort).length < d) →
    ∀ c, c ∈ [(Instr.cmdData line, Kind.data), (.cmdStatus line, .status), (.cmdOther line, .help)] → ∃ queues,
      exec c.1 s = .next { s with feq := queues } ∧ queues.length = s.feq.length ∧
      queues[s.cfg.textPort]? = some (s.queue s.cfg.textPort ++ [c.2]) ∧
      ∀ q, q ≠ s.cfg.textPort → queues[q]? = s.feq[q]?

/-- The surroundings' moves touch no register of the block (spec/43_boundary.md R201, R206). -/
def Obligations.BoundaryMovesTouchNoRegister : Prop :=
  ∀ (s t : State) (i : Instr),
    (∃ b, i = .deliver b) ∨ (∃ p k, i = .post p k) ∨ (∃ l, i = .cmdData l ∨ i = .cmdStatus l ∨ i = .cmdOther l) →
    exec i s = .next t → t = { s with rxq := t.rxq, feq := t.feq }

/-- STEP n is n dispatcher steps in sequence (spec/30_encoding.md R110). -/
def Obligations.StepCountsAreRepeatedSteps : Prop :=
  (∀ s : State, s.dispatcherTurn → step s = exec (.step 1) (taken s)) ∧
  (∀ (s : State) (m n : Nat), exec (.step (m + n)) s = andThen (exec (.step m) s) (exec (.step n)))

/-- RESET (spec/70_reset_and_hazards.md R260): every register takes its reset value, the trace is emptied, LinkError
is emitted if the link is down; the boundary queues stay. The model's own counts restart too (log entry 14). So does
`opResult` (log entry 13). -/
def Obligations.ResetTakesTheResetValues : Prop :=
  ∀ s : State, exec .reset s = .next { s with
    buf := [], length := 0, reading := s.cfg.readingReset, lastOutcome := .never, phase := .servicing, timer := 0
    trace := if s.cfg.linkOk then [] else [.linkError]
    now := 0, steps := 0, opResult := none }

/-- The state after reset (spec/10_state.md R41). -/
def Obligations.StateAfterReset : Prop :=
  (∀ a, a < 20 → readCell State.reset.buf a = 0) ∧ State.reset.length = 0 ∧
  State.reset.reading = State.reset.cfg.readingReset ∧ State.reset.lastOutcome = .never ∧
  State.reset.phase = .servicing ∧ State.reset.timer = 0 ∧ State.reset.trace = []

/-! ### The invariants and what they give -/

/-- The reset state satisfies the invariants of spec/10_state.md R33, which the spec infers from its operations. -/
def Obligations.ResetSatisfiesTheInvariants : Prop := State.reset.Inv

/-- Every step keeps the invariants of spec/10_state.md R33, which the spec infers from its operations. -/
def Obligations.EveryStepKeepsTheInvariants : Prop :=
  ∀ s t : State, s.Inv → step s = .next t → t.Inv

/-- In every state that meets the invariants a step with no move due answers a next state, be it the dispatcher's own
or a move that a free supply offers, and the two selects with no step do not occur (spec/30_encoding.md R102,
spec/41_dispatch.md R164; the spec infers it in R151). -/
def Obligations.TheDispatcherIsNeverStuck : Prop :=
  ∀ s : State, s.Inv → (s.pending = [] → answersNext (step s)) ∧ s.dsel ≠ 0b001 ∧ s.dsel ≠ 0b111

/-- STEP n completes for every n from every state that meets the invariants, which hold again: the run has no end
(spec/41_dispatch.md R164). -/
def Obligations.TheRunHasNoEnd : Prop :=
  ∀ (s : State) (n : Nat), s.Inv → ∃ t, exec (.step n) s = .next t ∧ t.Inv

/-! ### Rules of the whole machine -/

/-- The dispatcher's transitions are those of the table (spec/41_dispatch.md R162). -/
def Obligations.PhaseTransitions : Prop :=
  ∀ s t : State, s.dispatcherTurn → step s = .next t →
    (s.phase = .servicing ∧ t.phase = .waiting) ∨
    (s.phase = .waiting ∧ s.timer = 0 ∧ s.rxq ≠ [] ∧ t.phase = .capturing) ∨
    (s.phase = .waiting ∧ s.timer = 0 ∧ s.rxq = [] ∧ t.phase = .waiting ∧ t.timer = s.cfg.tYield) ∨
    (s.phase = .waiting ∧ 0 < s.timer ∧ t.phase = .waiting ∧ t.timer = s.timer - 1) ∨
    (s.phase = .capturing ∧ s.timer = 0 ∧ s.rxq ≠ [] ∧ t.phase = .capturing ∧ t.timer = s.cfg.tSettle) ∨
    (s.phase = .capturing ∧ s.timer = 0 ∧ s.rxq = [] ∧ t.phase = .evaluating) ∨
    (s.phase = .capturing ∧ 0 < s.timer ∧ t.phase = .capturing ∧ t.timer = s.timer - 1) ∨
    (s.phase = .evaluating ∧ t.phase = .servicing)

/-- Only the evaluation of a whole report writes `reading` (spec/42_cache.md R191, spec/60_exceptions.md R251). -/
def Obligations.ReadingHasOneWriter : Prop :=
  ∀ s t : State, s.dispatcherTurn → step s = .next t → t.reading ≠ s.reading →
    s.phase = .evaluating ∧ s.length.toNat = 20 ∧ readCell s.buf 0 = 0x16 ∧ readCell s.buf 1 = 0x11 ∧
    readCell s.buf 2 = 0x0B ∧ readCell s.buf 3 = 0x00 ∧ readCell s.buf 4 = 0x00 ∧
    t.reading.toNat = 256 * (readCell s.buf 5).toNat + (readCell s.buf 6).toNat ∧ t.lastOutcome = .tag .valid

/-- No front end is served in CAPTURING or EVALUATING: every queue and every answer stays
(spec/41_dispatch.md R155 to R157, R165; the spec infers it in R73 c). -/
def Obligations.NoServiceDuringACapture : Prop :=
  ∀ s t : State, s.dispatcherTurn → (s.phase = .capturing ∨ s.phase = .evaluating) → step s = .next t →
    t.feq = s.feq ∧ ∀ p, answers t p = answers s p

/-- A dispatcher step takes the oldest byte exactly when it raises `rx_rd`, and no other step removes one
(spec/10_state.md R37; the spec infers it in R202). -/
def Obligations.BytesStayUntilRead : Prop :=
  ∀ s t : State, s.dispatcherTurn → step s = .next t →
    (rxRd s = true → ∃ b, rxData s = some b ∧ s.rxq = b :: t.rxq) ∧ (rxRd s = false → t.rxq = s.rxq)

/-- No step writes a launch parameter or changes the number of ports (spec/10_state.md R21). -/
def Obligations.ParametersAreNeverWritten : Prop :=
  ∀ s t : State, step s = .next t → t.cfg = s.cfg ∧ t.feq.length = s.feq.length

/-- `last_outcome`, the trace and the model's counts steer nothing: states that differ only there step alike
(spec/10_state.md R21, R27). -/
def Obligations.RecordsSteerNothing : Prop :=
  ∀ s t : State, sameButRecords s t →
    (∀ s', step s = .next s' → ∃ t', step t = .next t' ∧ sameButRecords s' t') ∧
    (∀ f, step s = .fault f → step t = .fault f) ∧ (∀ r, step s = .refused r → step t = .refused r)

/-! ### Bursts and frames -/

/-- The fill count after n APPENDs on an empty buffer is n mod 21 with n div 21 Overruns, and the cells hold the last
n mod 21 bytes (the spec infers it in spec/40_framer.md R137 from R131). -/
def Obligations.FillCountAfterABurst : Prop :=
  ∀ (s : State) (bytes : List Byte), s.buf = [] → s.length = 0 → ∃ cells, ∃ n : FillCount,
    appendAll bytes s = .next { s with
      buf := cells, length := n, trace := s.trace ++ List.replicate (bytes.length / 21) .overrun } ∧
    n.toNat = bytes.length % 21 ∧
    ∀ a, readCell cells a = if a < bytes.length % 21 then bytes.getD (bytes.length / 21 * 21 + a) 0 else 0

/-- A capture takes its bytes one per settling delay: n bytes cost n * (1 + T_SETTLE) steps and n * T_SETTLE ticks,
for every T_SETTLE and however many bytes wait behind them (spec/70_reset_and_hazards.md R285, R273). The counts of
ticks and steps are the model's own (log entry 14). -/
def Obligations.CaptureTakesOneBytePerDelay : Prop :=
  ∀ (s t : State) (bytes rest : List Byte), s.phase = .capturing → s.timer = 0 → s.rxq = bytes ++ rest →
    appendAll bytes s = .next t →
    exec (.step (bytes.length * (1 + s.cfg.tSettle))) s = .next { t with
      rxq := rest
      now := s.now + bytes.length * s.cfg.tSettle
      steps := s.steps + bytes.length * (1 + s.cfg.tSettle) }

/-- A whole report that waits at a poll is decoded: the poll, 20 paced reads, the poll that ends the burst and the
evaluation leave its reading in the cache, for every reading, trailer and T_SETTLE (spec/70_reset_and_hazards.md R285;
the spec infers it in R274). The counts of ticks and steps are the model's own (log entry 14). -/
def Obligations.WholeFrameIsDecoded : Prop :=
  ∀ (s : State) (high low : Byte) (trailer : List Byte), s.phase = .waiting → s.timer = 0 → s.buf = [] →
    s.length = 0 → trailer.length = 13 → s.rxq = [0x16, 0x11, 0x0B, 0x00, 0x00, high, low] ++ trailer →
    exec (.step (20 * (1 + s.cfg.tSettle) + 3)) s = .next { s with
      rxq := []
      reading := high ++ low
      lastOutcome := .tag .valid
      phase := .servicing
      trace := s.trace ++ [.echo (high ++ low), .eval .valid]
      now := s.now + 20 * s.cfg.tSettle
      steps := s.steps + (20 * (1 + s.cfg.tSettle) + 3) }

/-- The value of a valid frame is what GET returns straight after its evaluation, and what every request is answered
with in the service pass that follows, for all 65536 values (spec/42_cache.md R192). That GET's result is read in
`opResult` is the model's choice (log entry 13). The count of steps is the model's own (log entry 14). -/
def Obligations.FrameValueReachesTheFrontEnds : Prop :=
  ∀ (s : State) (v : Reading) (trailer : BitVec 104), s.phase = .evaluating → s.timer = 0 → ∃ t u,
    exec .dEval (s.holding (0x16110B0000#40 ++ v ++ trailer)) = .next t ∧
    exec .get t = .next u ∧ u.opResult = some (.value v) ∧
    exec .dService t = .next { s with
      buf := [], length := 0, reading := v, lastOutcome := .tag .valid, phase := .waiting
      feq := s.feq.map fun _ => []
      trace := s.trace ++ [.echo v, .eval .valid] ++ passAnswers v 0 s.feq
      steps := s.steps + 2 }

/-- A delay of n ticks is n steps that read and change nothing but the timer and the counts
(spec/70_reset_and_hazards.md R286). The counts of ticks and steps are the model's own (log entry 14). -/
def Obligations.DelaysRunOut : Prop :=
  ∀ s : State, s.phase = .waiting ∨ s.phase = .capturing → exec (.step s.timer) s =
    .next { s with timer := 0, now := s.now + s.timer, steps := s.steps + s.timer }

/-- A sender that has a byte ready at every poll is captured for ever: however many steps are made, the phase stays
CAPTURING, no request is served and the reading stands (spec/41_dispatch.md R155, R163; the spec infers it in
spec/70_reset_and_hazards.md R272). The sender is a supply that repeats one DELIVER and the steps of one read (log
entry 5). -/
def Obligations.ASenderThatNeverPausesIsCapturedForEver : Prop :=
  ∀ (s : State) (b : Byte) (n : Nat), s.Inv → s.phase = .capturing → s.timer = 0 → s.rxq = [] → s.script = [] →
    s.cfg.linkOk = true → (∀ d, s.cfg.rxqDepth = some d → 0 < d) →
    s.supply = .cycle (.word (0x1#4 ++ b) :: List.replicate (1 + s.cfg.tSettle) (.word 0x301)) →
    ∃ t, machineSteps n s = .next t ∧ t.phase = .capturing ∧ t.reading = s.reading ∧ t.feq = s.feq ∧
      ∀ p, answers t p = answers s p

/-- What the ports show: the status levels in the codes of spec/30_encoding.md R100 and R101, and the pulses of each event
with the codes of R101 and R104, with a value of zero for HELP (spec/10_state.md R36, R40). That each event has a cycle of
its own is the model's choice (log entry 27). -/
def Obligations.PortsShowStateAndEvents : Prop :=
  (∀ s : State, (statusPorts s).length = s.length ∧ (statusPorts s).reading = s.reading ∧
    ((statusPorts s).phase.toNat = match s.phase with
      | .servicing => 0 | .waiting => 1 | .capturing => 2 | .evaluating => 3) ∧
    ((statusPorts s).lastOutcome.toNat = match s.lastOutcome with
      | .never => 0 | .tag .valid => 1 | .tag .incomplete => 2 | .tag .headerMismatch => 3)) ∧
  (∀ (s : State) (p : Nat) (v : Reading),
    (∀ kc ∈ [(Kind.data, 0#3), (.status, 1), (.page, 3), (.value, 4)],
      pulseTrace (emit (.response p kc.1 (some v)) s) = pulseTrace s ++ [{ rsp := some (p, kc.2, v) }]) ∧
    pulseTrace (emit (.response p .help none) s) = pulseTrace s ++ [{ rsp := some (p, 2, 0) }]) ∧
  (∀ (s : State), ∀ tc ∈ [(EvalTag.valid, 1#2), (.incomplete, 2), (.headerMismatch, 3)],
    pulseTrace (emit (.eval tc.1) s) = pulseTrace s ++ [{ eval := some tc.2 }]) ∧
  (∀ (s : State) (v : Reading),
    pulseTrace (emit (.echo v) s) = pulseTrace s ++ [{ echo := some v }] ∧
    pulseTrace (emit .overrun s) = pulseTrace s ++ [{ overrun := true }] ∧
    pulseTrace (emit .linkError s) = pulseTrace s ++ [{ linkErr := true }])

/-! ### Encodings -/

/-- Every well-formed instruction's code word decodes to it. -/
def Obligations.DecodeOfEncode : Prop :=
  ∀ i : Instr, i.wellFormed = true → decode (encode i) = .instr i

/-- Each code word has one meaning: the instruction decoded is well formed and encodes to that very word. -/
def Obligations.EncodeOfDecode : Prop :=
  ∀ (w : CodeWord) (i : Instr), decode w = .instr i → i.wellFormed = true ∧ encode i = w

/-- The frame pattern by match and mask (spec/30_encoding.md R92). -/
def Obligations.ReportMatchAndMask : Prop :=
  ∀ f : FrameBits, (∃ i, decode (.frame20 f) = .instr i) ↔
    f &&& 0xFFFFFFFFFF000000000000000000000000000000#160 = 0x16110B0000000000000000000000000000000000#160

/-- The reserved codes decode to nothing (spec/30_encoding.md R102, R103, R104, R112). -/
def Obligations.ReservedCodesAreRejected : Prop :=
  (decode (.dsel 1) = .reject .noDispatcherStep ∧ decode (.dsel 7) = .reject .noDispatcherStep) ∧
  (∀ o, decode (.op3 6 o) = .reject .reservedOperation ∧ decode (.op3 7 o) = .reject .reservedOperation) ∧
  (∀ p, decode (.kind3 5 p) = .reject .reservedKind ∧ decode (.kind3 6 p) = .reject .reservedKind ∧
    decode (.kind3 7 p) = .reject .reservedKind) ∧
  (∀ w : BitVec 12, (w.extractLsb' 8 4 = 0 ∨ 5 ≤ (w.extractLsb' 8 4).toNat) →
    decode (.stim12 w) = .reject .reservedStatement) ∧
  decode (.stim12 0x300) = .reject .zeroSteps ∧
  (∀ b : BitVec 7, decode (.stim12 (0b00101#5 ++ b)) = .reject .reservedRequestBit) ∧
  (∀ (p : BitVec 4) (k : BitVec 3), 5 ≤ k.toNat → decode (.stim12 (0b00100#5 ++ p ++ k)) = .reject .reservedKind) ∧
  (∀ b : Byte, b ≠ 0 → decode (.stim12 (4#4 ++ b)) = .reject .resetOperand)

/-- Words written out from the tables of spec/30_encoding.md R102, R103, R104, R106 and the examples of R112. -/
def Obligations.SampleWordsDecode : Prop :=
  decode (.stim12 0x116) = .instr (.deliver 0x16) ∧ decode (.stim12 0x200) = .instr (.post 0 .data) ∧
  decode (.stim12 0x20C) = .instr (.post 1 .value) ∧ decode (.stim12 0x301) = .instr (.step 1) ∧
  decode (.stim12 0x30F) = .instr (.step 15) ∧ decode (.stim12 0x400) = .instr .reset ∧
  decode (.dsel 0b011) = .instr .dWaitSleep ∧ decode (.op3 5 0) = .instr .serviceAll ∧
  decode (.kind3 3 1) = .instr (.reqPage 1) ∧
  decode (.frame20 0x16110B00000023AAAAAAAAAAAAAAAAAAAAAAAAAA#160) =
    .instr (.pm25Report 0x0023 0xAAAAAAAAAAAAAAAAAAAAAAAAAA)

/-- The lines of the text channel: `data` and `status` in any letter case, every other line is the default
(spec/30_encoding.md R105; the character codes are general knowledge, R106, log entry 12). -/
def Obligations.TextLinesInAnyLetterCase : Prop :=
  ∀ line : Line,
    (decode (.text line) = .instr (.cmdData line) ↔ ∃ a b c d, line = [a, b, c, d] ∧
      (a = 0x64 ∨ a = 0x44) ∧ (b = 0x61 ∨ b = 0x41) ∧ (c = 0x74 ∨ c = 0x54) ∧ (d = 0x61 ∨ d = 0x41)) ∧
    (decode (.text line) = .instr (.cmdStatus line) ↔ ∃ a b c d e f, line = [a, b, c, d, e, f] ∧
      (a = 0x73 ∨ a = 0x53) ∧ (b = 0x74 ∨ b = 0x54) ∧ (c = 0x61 ∨ c = 0x41) ∧ (d = 0x74 ∨ d = 0x54) ∧
      (e = 0x75 ∨ e = 0x55) ∧ (f = 0x73 ∨ f = 0x53)) ∧
    (decode (.text line) = .instr (.cmdData line) ∨ decode (.text line) = .instr (.cmdStatus line) ∨
      decode (.text line) = .instr (.cmdOther line))
end

