-- ==== Sys2Proof/Laws/Memory.lean ====
section
/-! SUPPORT. The frame space: reading after writing, and that every memory operation keeps the canonical form. -/

namespace Sys2Proof.Machine

open Sys2Proof

@[simp] theorem readCell_nil (a : Nat) : readCell [] a = 0 := rfl

theorem readCell_cons (b : Nat) (w : Byte) (m : List Host.Cell) (a : Nat) :
    readCell ((b, w) :: m) a = if a = b then w else readCell m a := rfl

theorem Memory.wfFrom_cons (lo a : Nat) (v : Byte) (m : List Host.Cell) :
    Memory.wfFrom lo ((a, v) :: m) = true ↔ lo ≤ a ∧ a < 20 ∧ v ≠ 0 ∧ Memory.wfFrom (a + 1) m = true := by
  simp only [Memory.wfFrom, Bool.and_eq_true, decide_eq_true_eq, and_assoc]

/-- A lower bound on the offsets may be lowered. -/
theorem Memory.wfFrom_mono {lo hi : Nat} {m : List Host.Cell} (h : Memory.wfFrom hi m = true) (le : lo ≤ hi) :
    Memory.wfFrom lo m = true := by
  cases m with
  | nil => rfl
  | cons c m =>
    obtain ⟨a, v⟩ := c
    rw [Memory.wfFrom_cons] at h ⊢
    exact ⟨le.trans h.1, h.2⟩

/-- A canonical list holds nothing below its lower bound. -/
theorem readCell_below {lo : Nat} {m : List Host.Cell} (h : Memory.wfFrom lo m = true) {a : Nat} (lt : a < lo) :
    readCell m a = 0 := by
  induction m generalizing lo with
  | nil => rfl
  | cons c m ih =>
    obtain ⟨b, w⟩ := c
    rw [Memory.wfFrom_cons] at h
    rw [readCell_cons, if_neg (by omega), ih h.2.2.2 (by omega)]

/-- Nothing outside cells 0 to 19 is listed. -/
theorem readCell_outside {m : List Host.Cell} (h : Memory.wf m = true) {a : Nat} (le : 20 ≤ a) : readCell m a = 0 := by
  suffices ∀ lo, Memory.wfFrom lo m = true → readCell m a = 0 from this 0 h
  induction m with
  | nil => intro lo _; rfl
  | cons c m ih =>
    obtain ⟨b, w⟩ := c
    intro lo hw
    rw [Memory.wfFrom_cons] at hw
    have hm := Memory.wfFrom_mono hw.2.2.2 (Nat.zero_le _)
    rw [readCell_cons, if_neg (by omega), ih hm _ hm]

/-- A write keeps the canonical form. -/
theorem writeCell_wfFrom {lo : Nat} {m : List Host.Cell} (h : Memory.wfFrom lo m = true) {a : Nat} (le : lo ≤ a)
    (lt : a < 20) (v : Byte) : Memory.wfFrom lo (writeCell m a v) = true := by
  induction m generalizing lo with
  | nil =>
    by_cases hv : v = 0
    · simp [writeCell, hv, Memory.wfFrom]
    · rw [writeCell, if_neg hv, Memory.wfFrom_cons]
      exact ⟨le, lt, hv, rfl⟩
  | cons c m ih =>
    obtain ⟨b, w⟩ := c
    have hc := h
    rw [Memory.wfFrom_cons] at hc
    obtain ⟨h1, h2, h3, h4⟩ := hc
    simp only [writeCell]
    split
    · split
      · exact h
      · rw [Memory.wfFrom_cons, Memory.wfFrom_cons]
        exact ⟨le, lt, ‹_›, by omega, h2, h3, h4⟩
    · split
      · split
        · exact Memory.wfFrom_mono h4 (by omega)
        · rw [Memory.wfFrom_cons]
          subst_vars
          exact ⟨le, lt, ‹_›, h4⟩
      · rw [Memory.wfFrom_cons]
        exact ⟨h1, h2, h3, ih h4 (by omega)⟩

theorem writeCell_wf {m : List Host.Cell} (h : Memory.wf m = true) {a : Nat} (lt : a < 20) (v : Byte) :
    Memory.wf (writeCell m a v) = true := writeCell_wfFrom h (Nat.zero_le _) lt v

/-- The cell written reads as the byte written; every other cell reads as before. -/
theorem readCell_writeCell {lo : Nat} {m : List Host.Cell} (h : Memory.wfFrom lo m = true) (a : Nat) (v : Byte)
    (c : Nat) : readCell (writeCell m a v) c = if c = a then v else readCell m c := by
  induction m generalizing lo with
  | nil =>
    by_cases hv : v = 0
    · simp [writeCell, hv, readCell]
    · rw [writeCell, if_neg hv, readCell_cons]
  | cons d m ih =>
    obtain ⟨b, w⟩ := d
    have hc := h
    rw [Memory.wfFrom_cons] at hc
    obtain ⟨-, -, -, h4⟩ := hc
    have hbelow : ∀ x, x < b + 1 → readCell m x = 0 := fun x hx => readCell_below h4 hx
    simp only [writeCell]
    split
    · split
      · by_cases hca : c = a
        · subst hca
          rw [readCell_cons, if_neg (by omega), if_pos rfl, hbelow c (by omega)]
          exact ‹v = 0›.symm
        · rw [if_neg hca]
      · rfl
    · split
      · split
        · by_cases hca : c = a
          · rw [if_pos hca, hbelow c (by omega)]
            exact ‹v = 0›.symm
          · rw [if_neg hca, readCell_cons, if_neg (by omega)]
        · by_cases hca : c = a
          · simp [readCell_cons, hca]
          · rw [if_neg hca, readCell_cons, if_neg hca, readCell_cons, if_neg (by omega)]
      · rw [readCell_cons, ih h4, readCell_cons]
        by_cases hcb : c = b
        · rw [if_pos hcb, if_pos hcb, if_neg (by omega)]
        · rw [if_neg hcb, if_neg hcb]

theorem readCell_writeCell_self {m : List Host.Cell} (h : Memory.wf m = true) (a : Nat) (v : Byte) :
    readCell (writeCell m a v) a = v := by
  rw [readCell_writeCell h, if_pos rfl]

theorem readCell_writeCell_other {m : List Host.Cell} (h : Memory.wf m = true) {a c : Nat} (ne : c ≠ a) (v : Byte) :
    readCell (writeCell m a v) c = readCell m c := by
  rw [readCell_writeCell h, if_neg ne]

/-- A write of `n` bytes inside the frame space keeps the canonical form. -/
theorem writeBits_wf {m : List Host.Cell} (h : Memory.wf m = true) (a n : Nat) (le : a + n ≤ 20)
    (v : BitVec (8 * n)) : Memory.wf (writeBits m a n v) = true := by
  induction n with
  | zero => exact h
  | succ n ih => exact writeCell_wf (ih (by omega) _) (by omega) _

/-- A write of one byte is a write of one cell. -/
@[simp] theorem writeBits_one (m : List Host.Cell) (a : Nat) (v : BitVec (8 * 1)) :
    writeBits m a 1 v = writeCell m a v := by
  simp [writeBits]

/-- Cells outside the written range read as before. -/
theorem readCell_writeBits_outside {m : List Host.Cell} (h : Memory.wf m = true) (a n : Nat) (le : a + n ≤ 20)
    (v : BitVec (8 * n)) {c : Nat} (out : c < a ∨ a + n ≤ c) : readCell (writeBits m a n v) c = readCell m c := by
  induction n with
  | zero => rfl
  | succ n ih =>
    rw [writeBits, readCell_writeCell_other (writeBits_wf h a n (by omega) _) (by omega), ih (by omega) _ (by omega)]

/-- MemRead puts each further byte below those before it. -/
theorem memBits_succ_toNat (m : List Host.Cell) (a n : Nat) :
    (memBits m a (n + 1)).toNat = 256 * (memBits m a n).toNat + (readCell m (a + n)).toNat := by
  change (memBits m a n ++ readCell m (a + n)).toNat = _
  rw [BitVec.toNat_append, ← Nat.shiftLeft_add_eq_or_of_lt (readCell m (a + n)).isLt, Nat.shiftLeft_eq]
  omega

/-- MemRead depends on the cells of its range alone. -/
theorem memBits_congr {m₁ m₂ : List Host.Cell} (a n : Nat)
    (same : ∀ c, a ≤ c → c < a + n → readCell m₁ c = readCell m₂ c) : memBits m₁ a n = memBits m₂ a n := by
  induction n with
  | zero => rfl
  | succ n ih =>
    rw [memBits, memBits, ih fun c h₁ h₂ => same c h₁ (by omega), same (a + n) (by omega) (by omega)]

/-- What a MemWrite that answers a next state did (spec/00_scope.md R12). -/
theorem memWrite_next {s t : State} {a n : Nat} {v : BitVec (8 * n)} (h : memWrite s a n v = .next t) :
    a + n ≤ 20 ∧ t = { s with buf := writeBits s.buf a n v } := by
  unfold memWrite at h
  split at h
  · cases h
    exact ⟨‹_›, rfl⟩
  · cases h

/-- Two canonical lists that read alike everywhere are equal. -/
theorem Memory.ext_of_wf {m₁ m₂ : List Host.Cell} {lo : Nat} (h₁ : Memory.wfFrom lo m₁ = true)
    (h₂ : Memory.wfFrom lo m₂ = true) (same : ∀ a, readCell m₁ a = readCell m₂ a) : m₁ = m₂ := by
  induction m₁ generalizing m₂ lo with
  | nil =>
    cases m₂ with
    | nil => rfl
    | cons c m₂ =>
      obtain ⟨b, w⟩ := c
      rw [Memory.wfFrom_cons] at h₂
      have := same b
      rw [readCell_cons, if_pos rfl] at this
      exact absurd this.symm h₂.2.2.1
  | cons c m₁ ih =>
    obtain ⟨b, w⟩ := c
    have k₁ := h₁
    rw [Memory.wfFrom_cons] at k₁
    cases m₂ with
    | nil =>
      have := same b
      rw [readCell_cons, if_pos rfl] at this
      exact absurd this k₁.2.2.1
    | cons d m₂ =>
      obtain ⟨b', w'⟩ := d
      have k₂ := h₂
      rw [Memory.wfFrom_cons] at k₂
      have hb : b = b' := by
        rcases Nat.lt_trichotomy b b' with lt | eq | lt
        · have := same b
          rw [readCell_cons, if_pos rfl, readCell_cons, if_neg (by omega), readCell_below k₂.2.2.2 (by omega)] at this
          exact absurd this k₁.2.2.1
        · exact eq
        · have := same b'
          rw [readCell_cons, if_neg (by omega), readCell_cons, if_pos rfl, readCell_below k₁.2.2.2 (by omega)] at this
          exact absurd this.symm k₂.2.2.1
      subst hb
      have hw : w = w' := by simpa [readCell_cons] using same b
      subst hw
      congr 1
      refine ih k₁.2.2.2 k₂.2.2.2 fun a => ?_
      by_cases hab : a = b
      · subst hab
        rw [readCell_below k₁.2.2.2 (by omega), readCell_below k₂.2.2.2 (by omega)]
      · simpa [readCell_cons, hab] using same a

end Sys2Proof.Machine
end

