-- ==== Sys2Proof/Laws/State.lean ====
section
/-! SUPPORT. One lemma per field for each named update of the state, so that no later proof unfolds a record update. -/

namespace Sys2Proof.Machine

open Sys2Proof

@[simp] theorem emit_cfg (e : Event) (s : State) : (emit e s).cfg = s.cfg := rfl
@[simp] theorem emit_buf (e : Event) (s : State) : (emit e s).buf = s.buf := rfl
@[simp] theorem emit_length (e : Event) (s : State) : (emit e s).length = s.length := rfl
@[simp] theorem emit_reading (e : Event) (s : State) : (emit e s).reading = s.reading := rfl
@[simp] theorem emit_lastOutcome (e : Event) (s : State) : (emit e s).lastOutcome = s.lastOutcome := rfl
@[simp] theorem emit_phase (e : Event) (s : State) : (emit e s).phase = s.phase := rfl
@[simp] theorem emit_timer (e : Event) (s : State) : (emit e s).timer = s.timer := rfl
@[simp] theorem emit_rxq (e : Event) (s : State) : (emit e s).rxq = s.rxq := rfl
@[simp] theorem emit_feq (e : Event) (s : State) : (emit e s).feq = s.feq := rfl
@[simp] theorem emit_trace (e : Event) (s : State) : (emit e s).trace = s.trace ++ [e] := rfl
@[simp] theorem emit_now (e : Event) (s : State) : (emit e s).now = s.now := rfl
@[simp] theorem emit_steps (e : Event) (s : State) : (emit e s).steps = s.steps := rfl
@[simp] theorem emit_opResult (e : Event) (s : State) : (emit e s).opResult = s.opResult := rfl
@[simp] theorem emit_script (e : Event) (s : State) : (emit e s).script = s.script := rfl
@[simp] theorem emit_supply (e : Event) (s : State) : (emit e s).supply = s.supply := rfl

@[simp] theorem setReading_cfg (v : Reading) (s : State) : (setReading v s).cfg = s.cfg := rfl
@[simp] theorem setReading_buf (v : Reading) (s : State) : (setReading v s).buf = s.buf := rfl
@[simp] theorem setReading_length (v : Reading) (s : State) : (setReading v s).length = s.length := rfl
@[simp] theorem setReading_reading (v : Reading) (s : State) : (setReading v s).reading = v := rfl
@[simp] theorem setReading_lastOutcome (v : Reading) (s : State) : (setReading v s).lastOutcome = s.lastOutcome := rfl
@[simp] theorem setReading_phase (v : Reading) (s : State) : (setReading v s).phase = s.phase := rfl
@[simp] theorem setReading_timer (v : Reading) (s : State) : (setReading v s).timer = s.timer := rfl
@[simp] theorem setReading_rxq (v : Reading) (s : State) : (setReading v s).rxq = s.rxq := rfl
@[simp] theorem setReading_feq (v : Reading) (s : State) : (setReading v s).feq = s.feq := rfl
@[simp] theorem setReading_trace (v : Reading) (s : State) : (setReading v s).trace = s.trace := rfl
@[simp] theorem setReading_now (v : Reading) (s : State) : (setReading v s).now = s.now := rfl
@[simp] theorem setReading_steps (v : Reading) (s : State) : (setReading v s).steps = s.steps := rfl
@[simp] theorem setReading_opResult (v : Reading) (s : State) : (setReading v s).opResult = s.opResult := rfl
@[simp] theorem setReading_script (v : Reading) (s : State) : (setReading v s).script = s.script := rfl
@[simp] theorem setReading_supply (v : Reading) (s : State) : (setReading v s).supply = s.supply := rfl

@[simp] theorem clearFrame_cfg (s : State) : (clearFrame s).cfg = s.cfg := rfl
@[simp] theorem clearFrame_buf (s : State) : (clearFrame s).buf = [] := rfl
@[simp] theorem clearFrame_length (s : State) : (clearFrame s).length = 0 := rfl
@[simp] theorem clearFrame_reading (s : State) : (clearFrame s).reading = s.reading := rfl
@[simp] theorem clearFrame_lastOutcome (s : State) : (clearFrame s).lastOutcome = s.lastOutcome := rfl
@[simp] theorem clearFrame_phase (s : State) : (clearFrame s).phase = s.phase := rfl
@[simp] theorem clearFrame_timer (s : State) : (clearFrame s).timer = s.timer := rfl
@[simp] theorem clearFrame_rxq (s : State) : (clearFrame s).rxq = s.rxq := rfl
@[simp] theorem clearFrame_feq (s : State) : (clearFrame s).feq = s.feq := rfl
@[simp] theorem clearFrame_trace (s : State) : (clearFrame s).trace = s.trace := rfl
@[simp] theorem clearFrame_now (s : State) : (clearFrame s).now = s.now := rfl
@[simp] theorem clearFrame_steps (s : State) : (clearFrame s).steps = s.steps := rfl
@[simp] theorem clearFrame_opResult (s : State) : (clearFrame s).opResult = s.opResult := rfl
@[simp] theorem clearFrame_script (s : State) : (clearFrame s).script = s.script := rfl
@[simp] theorem clearFrame_supply (s : State) : (clearFrame s).supply = s.supply := rfl

@[simp] theorem recordOutcome_cfg (t : EvalTag) (s : State) : (recordOutcome t s).cfg = s.cfg := rfl
@[simp] theorem recordOutcome_buf (t : EvalTag) (s : State) : (recordOutcome t s).buf = s.buf := rfl
@[simp] theorem recordOutcome_length (t : EvalTag) (s : State) : (recordOutcome t s).length = s.length := rfl
@[simp] theorem recordOutcome_reading (t : EvalTag) (s : State) : (recordOutcome t s).reading = s.reading := rfl
@[simp] theorem recordOutcome_lastOutcome (t : EvalTag) (s : State) : (recordOutcome t s).lastOutcome = .tag t := rfl
@[simp] theorem recordOutcome_phase (t : EvalTag) (s : State) : (recordOutcome t s).phase = s.phase := rfl
@[simp] theorem recordOutcome_timer (t : EvalTag) (s : State) : (recordOutcome t s).timer = s.timer := rfl
@[simp] theorem recordOutcome_rxq (t : EvalTag) (s : State) : (recordOutcome t s).rxq = s.rxq := rfl
@[simp] theorem recordOutcome_feq (t : EvalTag) (s : State) : (recordOutcome t s).feq = s.feq := rfl
@[simp] theorem recordOutcome_trace (t : EvalTag) (s : State) : (recordOutcome t s).trace = s.trace ++ [.eval t] := rfl
@[simp] theorem recordOutcome_now (t : EvalTag) (s : State) : (recordOutcome t s).now = s.now := rfl
@[simp] theorem recordOutcome_steps (t : EvalTag) (s : State) : (recordOutcome t s).steps = s.steps := rfl
@[simp] theorem recordOutcome_opResult (t : EvalTag) (s : State) : (recordOutcome t s).opResult = s.opResult := rfl
@[simp] theorem recordOutcome_script (t : EvalTag) (s : State) : (recordOutcome t s).script = s.script := rfl
@[simp] theorem recordOutcome_supply (t : EvalTag) (s : State) : (recordOutcome t s).supply = s.supply := rfl

@[simp] theorem counted_cfg (n : Nat) (s : State) : (counted n s).cfg = s.cfg := rfl
@[simp] theorem counted_buf (n : Nat) (s : State) : (counted n s).buf = s.buf := rfl
@[simp] theorem counted_length (n : Nat) (s : State) : (counted n s).length = s.length := rfl
@[simp] theorem counted_reading (n : Nat) (s : State) : (counted n s).reading = s.reading := rfl
@[simp] theorem counted_lastOutcome (n : Nat) (s : State) : (counted n s).lastOutcome = s.lastOutcome := rfl
@[simp] theorem counted_phase (n : Nat) (s : State) : (counted n s).phase = s.phase := rfl
@[simp] theorem counted_timer (n : Nat) (s : State) : (counted n s).timer = s.timer := rfl
@[simp] theorem counted_rxq (n : Nat) (s : State) : (counted n s).rxq = s.rxq := rfl
@[simp] theorem counted_feq (n : Nat) (s : State) : (counted n s).feq = s.feq := rfl
@[simp] theorem counted_trace (n : Nat) (s : State) : (counted n s).trace = s.trace := rfl
@[simp] theorem counted_now (n : Nat) (s : State) : (counted n s).now = s.now + n := rfl
@[simp] theorem counted_steps (n : Nat) (s : State) : (counted n s).steps = s.steps + 1 := rfl
@[simp] theorem counted_opResult (n : Nat) (s : State) : (counted n s).opResult = s.opResult := rfl
@[simp] theorem counted_script (n : Nat) (s : State) : (counted n s).script = s.script := rfl
@[simp] theorem counted_supply (n : Nat) (s : State) : (counted n s).supply = s.supply := rfl

@[simp] theorem sleepTick_cfg (s : State) : (sleepTick s).cfg = s.cfg := rfl
@[simp] theorem sleepTick_buf (s : State) : (sleepTick s).buf = s.buf := rfl
@[simp] theorem sleepTick_length (s : State) : (sleepTick s).length = s.length := rfl
@[simp] theorem sleepTick_reading (s : State) : (sleepTick s).reading = s.reading := rfl
@[simp] theorem sleepTick_lastOutcome (s : State) : (sleepTick s).lastOutcome = s.lastOutcome := rfl
@[simp] theorem sleepTick_phase (s : State) : (sleepTick s).phase = s.phase := rfl
@[simp] theorem sleepTick_timer (s : State) : (sleepTick s).timer = s.timer - 1 := rfl
@[simp] theorem sleepTick_rxq (s : State) : (sleepTick s).rxq = s.rxq := rfl
@[simp] theorem sleepTick_feq (s : State) : (sleepTick s).feq = s.feq := rfl
@[simp] theorem sleepTick_trace (s : State) : (sleepTick s).trace = s.trace := rfl
@[simp] theorem sleepTick_now (s : State) : (sleepTick s).now = s.now + 1 := rfl
@[simp] theorem sleepTick_steps (s : State) : (sleepTick s).steps = s.steps + 1 := rfl
@[simp] theorem sleepTick_opResult (s : State) : (sleepTick s).opResult = s.opResult := rfl
@[simp] theorem sleepTick_script (s : State) : (sleepTick s).script = s.script := rfl
@[simp] theorem sleepTick_supply (s : State) : (sleepTick s).supply = s.supply := rfl

@[simp] theorem taken_cfg (s : State) : (taken s).cfg = s.cfg := rfl
@[simp] theorem taken_buf (s : State) : (taken s).buf = s.buf := rfl
@[simp] theorem taken_length (s : State) : (taken s).length = s.length := rfl
@[simp] theorem taken_reading (s : State) : (taken s).reading = s.reading := rfl
@[simp] theorem taken_lastOutcome (s : State) : (taken s).lastOutcome = s.lastOutcome := rfl
@[simp] theorem taken_phase (s : State) : (taken s).phase = s.phase := rfl
@[simp] theorem taken_timer (s : State) : (taken s).timer = s.timer := rfl
@[simp] theorem taken_rxq (s : State) : (taken s).rxq = s.rxq := rfl
@[simp] theorem taken_feq (s : State) : (taken s).feq = s.feq := rfl
@[simp] theorem taken_trace (s : State) : (taken s).trace = s.trace := rfl
@[simp] theorem taken_now (s : State) : (taken s).now = s.now := rfl
@[simp] theorem taken_steps (s : State) : (taken s).steps = s.steps := rfl
@[simp] theorem taken_opResult (s : State) : (taken s).opResult = s.opResult := rfl
@[simp] theorem taken_script (s : State) : (taken s).script = s.pending.tail := rfl
@[simp] theorem taken_supply (s : State) :
    (taken s).supply = if s.pending = [] then s.supply.next else s.supply := rfl

@[simp] theorem holding_cfg (f : FrameBits) (s : State) : (s.holding f).cfg = s.cfg := by simp only [State.holding]
@[simp] theorem holding_buf (f : FrameBits) (s : State) : (s.holding f).buf = writeBits [] 0 cap f := by simp only [State.holding]
@[simp] theorem holding_length (f : FrameBits) (s : State) : (s.holding f).length = 20 := by simp only [State.holding]
@[simp] theorem holding_reading (f : FrameBits) (s : State) : (s.holding f).reading = s.reading := by simp only [State.holding]
@[simp] theorem holding_lastOutcome (f : FrameBits) (s : State) : (s.holding f).lastOutcome = s.lastOutcome := by simp only [State.holding]
@[simp] theorem holding_phase (f : FrameBits) (s : State) : (s.holding f).phase = s.phase := by simp only [State.holding]
@[simp] theorem holding_timer (f : FrameBits) (s : State) : (s.holding f).timer = s.timer := by simp only [State.holding]
@[simp] theorem holding_rxq (f : FrameBits) (s : State) : (s.holding f).rxq = s.rxq := by simp only [State.holding]
@[simp] theorem holding_feq (f : FrameBits) (s : State) : (s.holding f).feq = s.feq := by simp only [State.holding]
@[simp] theorem holding_trace (f : FrameBits) (s : State) : (s.holding f).trace = s.trace := by simp only [State.holding]
@[simp] theorem holding_now (f : FrameBits) (s : State) : (s.holding f).now = s.now := by simp only [State.holding]
@[simp] theorem holding_steps (f : FrameBits) (s : State) : (s.holding f).steps = s.steps := by simp only [State.holding]
@[simp] theorem holding_opResult (f : FrameBits) (s : State) : (s.holding f).opResult = s.opResult := by simp only [State.holding]
@[simp] theorem holding_script (f : FrameBits) (s : State) : (s.holding f).script = s.script := by simp only [State.holding]
@[simp] theorem holding_supply (f : FrameBits) (s : State) : (s.holding f).supply = s.supply := by simp only [State.holding]

end Sys2Proof.Machine
end

