-- ==== Sys2Proof/Laws/Ops.lean ====
section
/-! SUPPORT. For each shared operation one lemma that says what it can do when it answers a next state. -/

namespace Sys2Proof.Machine

open Sys2Proof

/-! ### Sequencing -/

@[simp] theorem andThen_of_next (s : State) (k : State → Out) : andThen (.next s) k = k s := rfl

@[simp] theorem andThen_of_fault (f : Fault) (k : State → Out) : andThen (.fault f) k = .fault f := rfl

@[simp] theorem andThen_of_refused (r : Refusal) (k : State → Out) : andThen (.refused r) k = .refused r := rfl

/-- A sequence answers a next state exactly when both of its parts do. -/
theorem andThen_next {o : Out} {k : State → Out} {t : State} :
    andThen o k = .next t ↔ ∃ m, o = .next m ∧ k m = .next t := by
  cases o <;> simp

theorem andThen_assoc (o : Out) (k l : State → Out) : andThen (andThen o k) l = andThen o fun s => andThen (k s) l := by
  cases o <;> rfl

theorem whenSelected_next {d : BitVec 3} {s t : State} {k : Out} (h : whenSelected d s k = .next t) :
    s.dsel = d ∧ k = .next t := by
  unfold whenSelected at h
  split at h
  · exact ⟨‹_›, h⟩
  · cases h

theorem whenSelected_of_eq {d : BitVec 3} {s : State} (h : s.dsel = d) (k : Out) : whenSelected d s k = k := if_pos h

/-! ### The queues -/

@[simp] theorem rxAvail_nil {s : State} (h : s.rxq = []) : rxAvail s = false := by simp [rxAvail, h]

@[simp] theorem rxAvail_cons {s : State} {b : Byte} {rest : List Byte} (h : s.rxq = b :: rest) : rxAvail s = true := by
  simp [rxAvail, h]

theorem withRxRead_cons {s : State} {b : Byte} {rest : List Byte} (h : s.rxq = b :: rest) (k : Byte → State → Out) :
    withRxRead s k = k b { s with rxq := rest } := by
  simp [withRxRead, rxRead, h]

/-- What a post that is accepted does. -/
theorem postRequest_next {p : Nat} {k : Kind} {s t : State} (h : postRequest p k s = .next t) :
    p < s.nfe ∧ hasRoom s.cfg.feqDepth (s.queue p).length = true ∧
      t = { s with feq := s.feq.set p (s.queue p ++ [k]) } := by
  unfold postRequest at h
  split at h
  · split at h
    · cases h
      exact ⟨‹_›, ‹_›, rfl⟩
    · cases h
  · cases h

theorem postRequest_of_room {p : Nat} {k : Kind} {s : State} (hp : p < s.nfe)
    (room : hasRoom s.cfg.feqDepth (s.queue p).length = true) :
    postRequest p k s = .next { s with feq := s.feq.set p (s.queue p ++ [k]) } := by
  simp [postRequest, hp, room]

theorem serveRequest_next {p : Nat} {k : Kind} {s t : State} (h : serveRequest p k s = .next t) :
    p < s.nfe ∧ t = serve p k s := by
  unfold serveRequest at h
  split at h
  · cases h
    exact ⟨‹_›, rfl⟩
  · cases h

/-! ### The service pass -/

/-- SERVE only adds its answer to the trace. -/
theorem serve_eq (p : Nat) (k : Kind) (s : State) :
    serve p k s = { s with trace := s.trace ++ portAnswers s.reading p [k] } := by
  cases k <;> rfl

/-- The service of one port touches its queue and the trace, and nothing else. -/
theorem servePort_frame (p n : Nat) (s : State) :
    servePort p n s = { s with feq := (servePort p n s).feq, trace := (servePort p n s).trace } := by
  induction n generalizing s with
  | zero => rfl
  | succ n ih =>
    unfold servePort
    split
    · rename_i k t h
      rw [ih, serve_eq]
      unfold popRequest at h
      split at h
      · cases h
      · cases h
        rfl
    · rfl

/-! ### The framer -/

theorem lengthLegal_iff (s : State) : lengthLegal s = true ↔ s.length.toNat ≤ 20 := by simp [lengthLegal]

/-- What APPEND does when it answers a next state (spec/40_framer.md R131). -/
theorem appendByte_next {b : Byte} {s t : State} (h : appendByte b s = .next t) :
    (s.length.toNat < 20 ∧ t = { s with buf := writeCell s.buf s.length.toNat b, length := s.length + 1 }) ∨
    (s.length.toNat = 20 ∧ t = emit .overrun (clearFrame s)) := by
  unfold appendByte at h
  split at h
  · have legal := (lengthLegal_iff s).1 ‹_›
    split at h
    · rename_i lt
      obtain ⟨m, hm, hk⟩ := andThen_next.1 h
      obtain ⟨-, rfl⟩ := memWrite_next hm
      cases hk
      exact .inl ⟨lt, by rw [writeBits_one]⟩
    · rename_i nlt
      have : ¬s.length.toNat < 20 := nlt
      cases h
      exact .inr ⟨by omega, rfl⟩
  · cases h

theorem appendByte_of_lt {s : State} (lt : s.length.toNat < 20) (b : Byte) :
    appendByte b s = .next { s with buf := writeCell s.buf s.length.toNat b, length := s.length + 1 } := by
  unfold appendByte memWrite
  have le : s.length.toNat + 1 ≤ cap := lt
  rw [if_pos ((lengthLegal_iff s).2 (by omega)), if_pos (show s.length.toNat < cap from lt), if_pos le, andThen_of_next,
    writeBits_one]

theorem appendByte_of_full {s : State} (full : s.length.toNat = 20) (b : Byte) :
    appendByte b s = .next (emit .overrun (clearFrame s)) := by
  unfold appendByte
  rw [if_pos ((lengthLegal_iff s).2 (by omega)), if_neg (by simp; omega)]

/-- What EVALUATE does when it answers a next state: one of the three outcomes (spec/40_framer.md R132). -/
theorem evaluateFrame_next {s t : State} (h : evaluateFrame s = .next t) :
    s.length.toNat ≤ 20 ∧
    ((evalTag s = .valid ∧ t = acceptReading (frameReading s.buf) s) ∨
     (evalTag s ≠ .valid ∧ t = finishEvaluation (evalTag s) s)) := by
  unfold evaluateFrame at h
  split at h
  · refine ⟨(lengthLegal_iff s).1 ‹_›, ?_⟩
    split at h <;> cases h <;> rename_i tag <;> simp [tag]
  · cases h

theorem evaluateFrame_of_legal {s : State} (legal : s.length.toNat ≤ 20) :
    evaluateFrame s = .next (if evalTag s = .valid then acceptReading (frameReading s.buf) s
      else finishEvaluation (evalTag s) s) := by
  unfold evaluateFrame
  rw [if_pos ((lengthLegal_iff s).2 legal)]
  cases evalTag s <;> rfl

theorem evalTag_incomplete {s : State} (h : s.length.toNat ≠ 20) : evalTag s = .incomplete := by simp [evalTag, h]

theorem evalTag_headerMismatch {s : State} (h : s.length.toNat = 20) (hd : headerBits s.buf ≠ 0x16110B0000#40) :
    evalTag s = .headerMismatch := by simp [evalTag, h, hd]

theorem evalTag_valid {s : State} (h : s.length.toNat = 20) (hd : headerBits s.buf = 0x16110B0000#40) :
    evalTag s = .valid := by simp [evalTag, h, hd]

/-! ### The dispatcher -/

/-- The dispatcher select of each phase, asleep or not (spec/30_encoding.md R102). -/
theorem dsel_of {s : State} {ph : Phase} (h : s.phase = ph) :
    s.dsel = ph.code ++ (if s.timer = 0 then 0#1 else 1#1) := by rw [← h]; rfl

/-- What the dispatcher's own step can be when it answers a next state. -/
theorem dispatcherStep_cases {s t : State} (h : dispatcherStep s = .next t) :
    (s.phase = .servicing ∧ s.timer = 0 ∧ execDService s = .next t) ∨
    (s.phase = .waiting ∧ s.timer = 0 ∧ execDWaitPoll s = .next t) ∨
    (s.phase = .waiting ∧ s.timer ≠ 0 ∧ execDWaitSleep s = .next t) ∨
    (s.phase = .capturing ∧ s.timer = 0 ∧ execDCapRead s = .next t) ∨
    (s.phase = .capturing ∧ s.timer ≠ 0 ∧ execDCapSettle s = .next t) ∨
    (s.phase = .evaluating ∧ s.timer = 0 ∧ execDEval s = .next t) := by
  unfold dispatcherStep at h
  split at h <;> simp_all

/-- Steps of a run in sequence. -/
theorem dispatcherSteps_add (m n : Nat) (s : State) :
    dispatcherSteps (m + n) s = andThen (dispatcherSteps m s) (dispatcherSteps n) := by
  induction m generalizing s with
  | zero => simp [dispatcherSteps]
  | succ m ih =>
    rw [Nat.succ_add]
    simp only [dispatcherSteps, andThen_assoc]
    congr 1
    exact funext ih

/-! ### Whose turn it is -/

/-- With no move due, nothing is left of the script. -/
theorem script_of_pending_nil {s : State} (h : s.pending = []) : s.script = [] := by
  unfold State.pending at h
  split at h
  · cases h
  · assumption

/-- A turn with no move due changes only a free supply. -/
theorem taken_of_nil {s : State} (h : s.pending = []) : taken s = { s with supply := s.supply.next } := by
  simpa [taken, h] using script_of_pending_nil h

/-- A turn with a move due takes that move. -/
theorem taken_of_cons {s : State} {m : Move} {rest : List Move} (h : s.pending = m :: rest) :
    taken s = { s with script := rest } := by
  simp [taken, h]

/-- With a silent supply and an empty script it is the dispatcher's turn. -/
theorem dispatcherTurn_of_silent {s : State} (script : s.script = []) (silent : s.supply = .silent) :
    s.dispatcherTurn := by
  simp [State.dispatcherTurn, State.pending, State.offered, script, silent]

/-- What an offer can be as a move. -/
theorem offer_some {s : State} {o : Offer} {i : Instr} (h : s.offer o = some i) :
    (∃ b, i = .deliver b ∧ s.cfg.linkOk = true ∧ hasRoom s.cfg.rxqDepth s.rxq.length = true) ∨
    (∃ p k, i = .post p k ∧ p < s.nfe ∧ hasRoom s.cfg.feqDepth (s.queue p).length = true) ∨ i = .reset := by
  cases o <;> simp only [State.offer] at h
  · split at h <;> cases h
    exact .inl ⟨_, rfl, (Bool.and_eq_true _ _).mp ‹_›⟩
  · split at h <;> cases h
    exact .inr (.inl ⟨_, _, rfl, ‹_›⟩)
  · cases h
    exact .inr (.inr rfl)

/-- What a move of the surroundings can be, as an instruction: a pending word, line or request, or an offer. -/
theorem nextInstr_cases {s : State} {i : Instr} (h : nextInstr s = .instr i) :
    (s.dispatcherTurn ∧ decode (.dsel s.dsel) = .instr i) ∨
    (∃ o, s.pending = [] ∧ s.offer o = some i) ∨
    (∃ w rest, s.pending = .word w :: rest ∧ decode (.stim12 w) = .instr i) ∨
    (∃ l rest, s.pending = .line l :: rest ∧ decode (.text l) = .instr i) ∨
    ∃ p k, i = .post p k := by
  unfold nextInstr at h
  split at h
  · split at h
    · cases h
      rename_i pending _ offered
      unfold State.offered at offered
      split at offered
      · cases offered
      · cases offered
      · obtain ⟨o, -, some⟩ := Option.bind_eq_some_iff.1 offered
        exact .inr (.inl ⟨o, pending, some⟩)
    · exact .inl ⟨⟨‹_›, ‹_›⟩, h⟩
  · exact .inr (.inr (.inl ⟨_, _, ‹_›, h⟩))
  · cases h
    exact .inr (.inr (.inr (.inr ⟨_, _, rfl⟩)))
  · exact .inr (.inr (.inr (.inl ⟨_, _, ‹_›, h⟩)))
  · cases h
    exact .inr (.inr (.inr (.inr ⟨_, _, rfl⟩)))

end Sys2Proof.Machine
end

