-- ==== Sys2Proof/Laws/PerInstr.lean ====
section
/-! SUPPORT. The per-instruction family CodeSpace: the encoder puts a well-formed instruction into its own code space of
spec/30_encoding.md, and the decoder of that space gives an instruction of the same space back. -/

namespace Sys2Proof.Laws

open Sys2Proof

/-- The six code spaces. -/
inductive Space where
  | frame20 | dsel | op3 | kind3 | text | stim12
deriving DecidableEq, Repr

/-- The code space of a raw code. -/
def spaceOf : CodeWord → Space
  | .frame20 _ => .frame20
  | .dsel _ => .dsel
  | .op3 _ _ => .op3
  | .kind3 _ _ => .kind3
  | .text _ => .text
  | .stim12 _ => .stim12

/-- The format of an instruction's row in spec/opcode_table.json. -/
def rowSpace : Instr → Space
  | .pm25Report _ _ => .frame20
  | .dService => .dsel
  | .dWaitPoll => .dsel
  | .dWaitSleep => .dsel
  | .dCapRead => .dsel
  | .dCapSettle => .dsel
  | .dEval => .dsel
  | .idle => .op3
  | .append _ => .op3
  | .evaluate => .op3
  | .get => .op3
  | .set _ => .op3
  | .serviceAll => .op3
  | .reqData _ => .kind3
  | .reqStatus _ => .kind3
  | .reqHelp _ => .kind3
  | .reqPage _ => .kind3
  | .reqValue _ => .kind3
  | .cmdData _ => .text
  | .cmdStatus _ => .text
  | .cmdOther _ => .text
  | .deliver _ => .stim12
  | .post _ _ => .stim12
  | .step _ => .stim12
  | .reset => .stim12

/-- The code word of `i` is in the format its row of the table has. -/
def CodeSpace.Statement (i : Instr) : Prop := spaceOf (encode i) = rowSpace i

theorem CodeSpace.pm25Report (v : Reading) (t : BitVec 104) : CodeSpace.Statement (.pm25Report v t) := rfl
theorem CodeSpace.dService : CodeSpace.Statement .dService := rfl
theorem CodeSpace.dWaitPoll : CodeSpace.Statement .dWaitPoll := rfl
theorem CodeSpace.dWaitSleep : CodeSpace.Statement .dWaitSleep := rfl
theorem CodeSpace.dCapRead : CodeSpace.Statement .dCapRead := rfl
theorem CodeSpace.dCapSettle : CodeSpace.Statement .dCapSettle := rfl
theorem CodeSpace.dEval : CodeSpace.Statement .dEval := rfl
theorem CodeSpace.idle : CodeSpace.Statement .idle := rfl
theorem CodeSpace.append (b : Byte) : CodeSpace.Statement (.append b) := rfl
theorem CodeSpace.evaluate : CodeSpace.Statement .evaluate := rfl
theorem CodeSpace.get : CodeSpace.Statement .get := rfl
theorem CodeSpace.set (v : Reading) : CodeSpace.Statement (.set v) := rfl
theorem CodeSpace.serviceAll : CodeSpace.Statement .serviceAll := rfl
theorem CodeSpace.reqData (p : Nat) : CodeSpace.Statement (.reqData p) := rfl
theorem CodeSpace.reqStatus (p : Nat) : CodeSpace.Statement (.reqStatus p) := rfl
theorem CodeSpace.reqHelp (p : Nat) : CodeSpace.Statement (.reqHelp p) := rfl
theorem CodeSpace.reqPage (p : Nat) : CodeSpace.Statement (.reqPage p) := rfl
theorem CodeSpace.reqValue (p : Nat) : CodeSpace.Statement (.reqValue p) := rfl
theorem CodeSpace.cmdData (line : Line) : CodeSpace.Statement (.cmdData line) := rfl
theorem CodeSpace.cmdStatus (line : Line) : CodeSpace.Statement (.cmdStatus line) := rfl
theorem CodeSpace.cmdOther (line : Line) : CodeSpace.Statement (.cmdOther line) := rfl
theorem CodeSpace.deliver (b : Byte) : CodeSpace.Statement (.deliver b) := rfl
theorem CodeSpace.post (p : Nat) (k : Kind) : CodeSpace.Statement (.post p k) := rfl
theorem CodeSpace.step (n : Nat) : CodeSpace.Statement (.step n) := rfl
theorem CodeSpace.reset : CodeSpace.Statement .reset := rfl

end Sys2Proof.Laws
end

