-- ==== Sys2Proof/Machine/Script.lean ====
section
/-! DEFINITION. Stimulus scripts (spec/30_encoding.md R110, R111): the statements, their expansion, a runner, and the
words of an expanded script (R112). The block itself runs no script. -/

namespace Sys2Proof.Machine

open Sys2Proof

/-- `BURST h0 ... hk`: the bytes delivered with no step between (R111). -/
def burst (bytes : List Byte) : List Instr := bytes.map Instr.deliver

/-- The 20 bytes of `FRAME v fill ff` (R111). -/
def frameBytes (v : Reading) (fill : Byte) : List Byte :=
  [0x16, 0x11, 0x0B, 0x00, 0x00, v.extractLsb' 8 8, v.extractLsb' 0 8] ++ List.replicate 13 fill

/-- `FRAME v fill ff`; `FRAME v` has the fill 0x00 (R111). -/
def frame (v : Reading) (fill : Byte) : List Instr := burst (frameBytes v fill)

/-- `STEP n` as words of at most 255 steps (R112). -/
def stepWords (n : Nat) : List Instr :=
  List.replicate (n / 255) (.step 255) ++ if n % 255 = 0 then [] else [.step (n % 255)]

/-- `CAPTURE n`: the steps that take `n` queued bytes (R111). DESIGN CHOICE (log entry 28): the rule says when the
statement is valid, in CAPTURING with `timer = 0` and `n` bytes queued, and not what a runner does elsewhere; this one
runs the same number of steps, whatever the state. -/
def capture (c : Config) (n : Nat) : List Instr := stepWords (n * (1 + c.tSettle))

/-- `UNTIL_EVAL` with fuel: dispatcher steps until a D_EVAL has been performed; `none` when the fuel runs out (R111). -/
def untilEval : Nat → State → Option Out
  | 0, _ => none
  | fuel + 1, s =>
    if s.phase = .evaluating then some (dispatcherStep s)
    else match dispatcherStep s with
      | .next t => untilEval fuel t
      | .fault f => some (.fault f)
      | .refused r => some (.refused r)

/-- The name of a step as an author writes it beside `STEP` (R110), with the branch where one is written:
`(idle)` or `(avail)` for a poll in WAITING, `(byte)` or `(end)` for one in CAPTURING, as spec/95_test_vectors.md does. -/
inductive Annotation where
  | dService
  | dWaitPoll (avail : Option Bool)
  | dWaitSleep
  | dCapRead (byte : Option Bool)
  | dCapSettle
  | dEval
deriving DecidableEq, Repr

/-- The select of the step named (spec/30_encoding.md R102). -/
def Annotation.dsel : Annotation → BitVec 3
  | .dService => 0b000
  | .dWaitPoll _ => 0b010
  | .dWaitSleep => 0b011
  | .dCapRead _ => 0b100
  | .dCapSettle => 0b101
  | .dEval => 0b110

/-- Whether a byte is available in the branch named, where the annotation says. -/
def Annotation.avail : Annotation → Option Bool
  | .dService => none
  | .dWaitPoll a => a
  | .dWaitSleep => none
  | .dCapRead b => b
  | .dCapSettle => none
  | .dEval => none

/-- The annotation names the step, and the branch if it gives one, that the state selects (R110). -/
def Annotation.holds (a : Annotation) (s : State) : Bool :=
  decide (s.dsel = a.dsel) &&
    match a.avail with
    | some b => rxAvail s == b
    | none => true

/-- The statements of a script (R110, R111). -/
inductive Stmt where
  | rx (b : Byte)
  | req (p : Nat) (k : Kind)
  /-- `STEP n`, with the names of its first steps where the author annotates them. -/
  | steps (n : Nat) (names : List Annotation)
  | reset
  | burst (bytes : List Byte)
  | frame (v : Reading) (fill : Byte)
  | capture (n : Nat)
  | untilEval (fuel : Nat)
  | expect (condition : State → Bool)

/-- How a script ended. -/
inductive ScriptEnd where
  | finished (s : State)
  | stopped (o : Out)
  | outOfFuel
  | expectationFailed (s : State)
  /-- An annotation was checked and names another step than the state selects, or a step that `STEP n` does not reach. -/
  | annotationFailed (s : State)

/-- Instructions executed in order, stopping at the first stop. -/
def runInstrs : List Instr → State → Out
  | [], s => .next s
  | i :: is, s => andThen (exec i s) (runInstrs is)

/-- How a script ends after a statement that answered this. -/
def ended : Out → ScriptEnd
  | .next t => .finished t
  | .fault f => .stopped (.fault f)
  | .refused r => .stopped (.refused r)

/-- `STEP n` with annotations: each is checked against the state before its step and obeyed by none (R110). DESIGN CHOICE
(log entry 28): a script whose annotation fails ends there, as it does at an EXPECT that fails. -/
def runSteps : Nat → List Annotation → State → ScriptEnd
  | 0, [], s => .finished s
  | 0, _ :: _, s => .annotationFailed s
  | n + 1, [], s => ended (exec (.step (n + 1)) s)
  | n + 1, a :: names, s =>
    if a.holds s then
      match exec (.step 1) s with
      | .next t => runSteps n names t
      | .fault f => .stopped (.fault f)
      | .refused r => .stopped (.refused r)
    else .annotationFailed s

/-- One statement (R110, R111); EXPECT changes nothing. -/
def runStmt (stmt : Stmt) (s : State) : ScriptEnd :=
  match stmt with
  | .rx b => ended (exec (.deliver b) s)
  | .req p k => ended (exec (.post p k) s)
  | .steps n names => runSteps n names s
  | .reset => ended (exec .reset s)
  | .burst bytes => ended (runInstrs (Machine.burst bytes) s)
  | .frame v fill => ended (runInstrs (Machine.frame v fill) s)
  | .capture n => ended (runInstrs (Machine.capture s.cfg n) s)
  | .untilEval fuel =>
    match Machine.untilEval fuel s with
    | some o => ended o
    | none => .outOfFuel
  | .expect condition => if condition s then .finished s else .expectationFailed s

/-- A script: its statements in order (R110). -/
def runScript : List Stmt → State → ScriptEnd
  | [], s => .finished s
  | stmt :: rest, s =>
    match runStmt stmt s with
    | .finished t => runScript rest t
    | .stopped o => .stopped o
    | .outOfFuel => .outOfFuel
    | .expectationFailed t => .expectationFailed t
    | .annotationFailed t => .annotationFailed t

/-- The STIM12 word of an instruction, if there is one: a port above 15, a count of 0 or above 255 and an instruction of
another code space have none (R112). -/
def stimWord (i : Instr) : Option (BitVec 12) :=
  if i.wellFormed then
    match encode i with
    | .stim12 w => some w
    | .frame20 _ => none
    | .dsel _ => none
    | .op3 _ _ => none
    | .kind3 _ _ => none
    | .text _ => none
  else none

/-- `STEP n` with any count is written as several words (R112); every other instruction is written as itself. -/
def expanded (i : Instr) : List Instr :=
  match i with
  | .step n => stepWords n
  | i => [i]

/-- An expanded script in its binary form, if it has one (R112). -/
def scriptWords (is : List Instr) : Option (List (BitVec 12)) := (is.flatMap expanded).mapM stimWord

/-- The pending move an instruction is: its word; else, for a port above 15, the text form, which has no such limit
(R112); else, for a command, its line. An instruction that is no move has none. -/
def moveOf (i : Instr) : Option Move :=
  match stimWord i with
  | some w => some (.word w)
  | none =>
    match i with
    | .post p k => some (.request p k)
    | i =>
      match i.wellFormed, encode i with
      | true, .text l => some (.line l)
      | _, _ => none

/-- The pending moves of an expanded script, if each of its instructions is a move (R110, R112). -/
def scriptMoves (is : List Instr) : Option (List Move) := (is.flatMap expanded).mapM moveOf

end Sys2Proof.Machine
end

