-- ==== Sys2Proof/Tests/Slice0.lean ====
section
/-! SUPPORT. The model's own tests: ill-formed terms that WellFormed refuses, one word per instruction written out from the
encodings of spec/30_encoding.md, one or two single steps per instruction with results taken from the vectors of
spec/95_test_vectors.md, and for every statement with hypotheses a witness that meets them. -/

namespace Sys2Proof.Tests

open Sys2Proof Sys2Proof.Machine

/-! ### WellFormed refuses ill-formed terms -/

theorem test_wf_refuses_cmdData_of_another_word : (Instr.cmdData [0x64, 0x61, 0x74]).wellFormed = false := by decide
theorem test_wf_refuses_cmdStatus_of_data : (Instr.cmdStatus [0x64, 0x61, 0x74, 0x61]).wellFormed = false := by decide
theorem test_wf_refuses_cmdOther_of_data : (Instr.cmdOther [0x44, 0x61, 0x54, 0x61]).wellFormed = false := by decide
theorem test_wf_refuses_cmdOther_of_status :
    (Instr.cmdOther [0x73, 0x74, 0x61, 0x74, 0x75, 0x73]).wellFormed = false := by decide
theorem test_wf_refuses_port_16 : (Instr.post 16 .data).wellFormed = false := by decide
theorem test_wf_refuses_step_0 : (Instr.step 0).wellFormed = false := by decide
theorem test_wf_refuses_step_256 : (Instr.step 256).wellFormed = false := by decide

/-! ### Decoding, each word from the tables of spec/30_encoding.md -/

/-- The frame of spec/95_test_vectors.md S2 with trailer bytes 0xAA. -/
theorem test_decode_pm25Report :
    decode (.frame20 0x16110B00000023AAAAAAAAAAAAAAAAAAAAAAAAAA#160) =
      .instr (.pm25Report 0x0023 0xAAAAAAAAAAAAAAAAAAAAAAAAAA) := by decide
/-- Reserved byte 3 is not zero: vector E11. -/
theorem test_decode_frame_with_reserved_byte :
    decode (.frame20 0x16110B01000023AAAAAAAAAAAAAAAAAAAAAAAAAA#160) = .reject .headerMismatch := by decide
theorem test_decode_dService : decode (.dsel 0b000) = .instr .dService := by decide
theorem test_decode_dWaitPoll : decode (.dsel 0b010) = .instr .dWaitPoll := by decide
theorem test_decode_dWaitSleep : decode (.dsel 0b011) = .instr .dWaitSleep := by decide
theorem test_decode_dCapRead : decode (.dsel 0b100) = .instr .dCapRead := by decide
theorem test_decode_dCapSettle : decode (.dsel 0b101) = .instr .dCapSettle := by decide
theorem test_decode_dEval : decode (.dsel 0b110) = .instr .dEval := by decide
theorem test_decode_idle : decode (.op3 0b000 0) = .instr .idle := by decide
theorem test_decode_append : decode (.op3 0b001 0x16) = .instr (.append 0x16) := by decide
theorem test_decode_evaluate : decode (.op3 0b010 0) = .instr .evaluate := by decide
theorem test_decode_get : decode (.op3 0b011 0) = .instr .get := by decide
theorem test_decode_set : decode (.op3 0b100 0x1234) = .instr (.set 0x1234) := by decide
theorem test_decode_serviceAll : decode (.op3 0b101 0) = .instr .serviceAll := by decide
theorem test_decode_reqData : decode (.kind3 0b000 1) = .instr (.reqData 1) := by decide
theorem test_decode_reqStatus : decode (.kind3 0b001 0) = .instr (.reqStatus 0) := by decide
theorem test_decode_reqHelp : decode (.kind3 0b010 0) = .instr (.reqHelp 0) := by decide
theorem test_decode_reqPage : decode (.kind3 0b011 1) = .instr (.reqPage 1) := by decide
theorem test_decode_reqValue : decode (.kind3 0b100 1) = .instr (.reqValue 1) := by decide
/-- `dAtA`. -/
theorem test_decode_cmdData :
    decode (.text [0x64, 0x41, 0x74, 0x41]) = .instr (.cmdData [0x64, 0x41, 0x74, 0x41]) := by decide
/-- `Status`. -/
theorem test_decode_cmdStatus : decode (.text [0x53, 0x74, 0x61, 0x74, 0x75, 0x73]) =
    .instr (.cmdStatus [0x53, 0x74, 0x61, 0x74, 0x75, 0x73]) := by decide
/-- The empty line, and `data` with a blank after it (whose trimming is the adapter's, spec/91_not_in_source.md N9). -/
theorem test_decode_cmdOther : decode (.text []) = .instr (.cmdOther []) ∧
    decode (.text [0x64, 0x61, 0x74, 0x61, 0x20]) = .instr (.cmdOther [0x64, 0x61, 0x74, 0x61, 0x20]) := by decide
theorem test_decode_deliver : decode (.stim12 0b000100010110) = .instr (.deliver 0x16) := by decide
theorem test_decode_post : decode (.stim12 0b001000001100) = .instr (.post 1 .value) := by decide
theorem test_decode_step : decode (.stim12 0b001100001111) = .instr (.step 15) := by decide
theorem test_decode_reset : decode (.stim12 0b010000000000) = .instr .reset := by decide

/-- The table's number for CMD_STATUS is its six characters, the first most significant. -/
theorem test_decodeTableWord_status : decodeTableWord 48 0x535441545553 =
    some (.cmdStatus [0x53, 0x54, 0x41, 0x54, 0x55, 0x53]) := by decide
theorem test_decodeTableWord_reserved : decodeTableWord 16 0x500 = none := by decide

/-! ### Single steps, results from spec/95_test_vectors.md -/

/-- The state answered, if there is one. -/
def after (o : Out) : Option State :=
  match o with
  | .next s => some s
  | .fault _ => none
  | .refused _ => none

/-- The registers a vector names. -/
structure Regs where
  phase : Phase
  timer : Nat
  length : FillCount
  reading : Reading
  lastOutcome : LastOutcome
deriving DecidableEq, Repr

def registers (s : State) : Regs := ⟨s.phase, s.timer, s.length, s.reading, s.lastOutcome⟩

/-- The reset state in a phase, with a timer. -/
def inPhase (ph : Phase) (timer : Nat) : State := { State.reset with phase := ph, timer := timer }

/-- A full buffer that holds `16 11 0B 00 00 00 23` and zeros, with `reading = 7`. -/
def fullReport : State :=
  { State.reset with buf := [(0, 0x16), (1, 0x11), (2, 0x0B), (6, 0x23)], length := 20, reading := 7 }

/-- The queues of vector V2 with `reading = 100`. -/
def pendingRequests : State := { State.reset with feq := [[.status, .help], [.value]], reading := 100 }

/-- Vector A2. -/
theorem test_append_third_byte :
    (after (exec (.append 0x0B) { State.reset with buf := [(0, 0x16), (1, 0x11)], length := 2 })).map
      (fun s => (s.length, s.buf)) = some (3, [(0, 0x16), (1, 0x11), (2, 0x0B)]) := by decide
/-- Vector A5. -/
theorem test_append_at_capacity : (after (exec (.append 0x16) fullReport)).map (fun s => (s.length, s.buf, s.trace)) =
    some (0, [], [.overrun]) := by decide
/-- Vector E1. -/
theorem test_evaluate_report : (after (exec .evaluate fullReport)).map (fun s => (registers s, s.buf, s.trace)) =
    some (⟨.servicing, 0, 0, 35, .tag .valid⟩, [], [.echo 35, .eval .valid]) := by decide
/-- Vector E23: short and wrong, the length is tested first. -/
theorem test_evaluate_short_and_wrong :
    (after (exec .evaluate { State.reset with buf := [(0, 0x17)], length := 7, reading := 7 })).map
      (fun s => (registers s, s.trace)) =
    some (⟨.servicing, 0, 0, 7, .tag .incomplete⟩, [.eval .incomplete]) := by decide
/-- Vector E14: byte 4 is 0x80. -/
theorem test_evaluate_wrong_header :
    (after (exec .evaluate { fullReport with buf := [(0, 0x16), (1, 0x11), (2, 0x0B), (4, 0x80), (6, 0x23)] })).map
      registers = some ⟨.servicing, 0, 0, 7, .tag .headerMismatch⟩ := by decide
/-- Vector E17: the high byte is at offset 5. -/
theorem test_pm25Report : (after (exec (.pm25Report 256 0) fullReport)).map (fun s => (registers s, s.trace)) =
    some (⟨.servicing, 0, 0, 256, .tag .valid⟩, [.echo 256, .eval .valid]) := by decide
theorem test_idle : after (exec .idle fullReport) = some fullReport := by decide
/-- Vector G2. -/
theorem test_get : (after (exec .get { State.reset with reading := 35 })).map (fun s => (s.opResult, s.reading)) =
    some (some (.value 35), 35) := by decide
/-- Vector G3. -/
theorem test_set : (after (exec (.set 4660) fullReport)).map registers =
    some ⟨.servicing, 0, 20, 4660, .never⟩ := by decide
/-- Vector V2. -/
theorem test_serviceAll : (after (exec .serviceAll pendingRequests)).map (fun s => (s.feq, s.trace)) =
    some ([[], []], [.response 0 .status (some 100), .response 0 .help none, .response 1 .value (some 100)]) := by
  decide
theorem test_reqData : (after (exec (.reqData 1) pendingRequests)).map (fun s => (s.feq, s.trace)) =
    some (pendingRequests.feq, [.response 1 .data (some 100)]) := by decide
theorem test_reqStatus : (after (exec (.reqStatus 0) pendingRequests)).map State.trace =
    some [.response 0 .status (some 100)] := by decide
theorem test_reqHelp : (after (exec (.reqHelp 0) pendingRequests)).map State.trace =
    some [.response 0 .help none] := by decide
/-- Vector V4's answer. -/
theorem test_reqPage : (after (exec (.reqPage 1) pendingRequests)).map State.trace =
    some [.response 1 .page (some 100)] := by decide
theorem test_reqValue : (after (exec (.reqValue 1) pendingRequests)).map State.trace =
    some [.response 1 .value (some 100)] := by decide
/-- Vector T2: front ends first even with a byte waiting. -/
theorem test_dService :
    (after (exec .dService { State.reset with rxq := [0x16], feq := [[.data], []], reading := 3 })).map
      (fun s => (registers s, s.rxq, s.feq, s.trace)) =
    some (⟨.waiting, 0, 0, 3, .never⟩, [0x16], [[], []], [.response 0 .data (some 3)]) := by decide
/-- Vector T4. -/
theorem test_dWaitPoll_idle :
    (after (exec .dWaitPoll { inPhase .waiting 0 with feq := [[], [.value]], reading := 3 })).map
      (fun s => (registers s, s.feq, s.trace)) =
    some (⟨.waiting, 1, 0, 3, .never⟩, [[], []], [.response 1 .value (some 3)]) := by decide
/-- Vector T5: the byte wins and the request is deferred. -/
theorem test_dWaitPoll_byte :
    (after (exec .dWaitPoll { inPhase .waiting 0 with rxq := [0x16], feq := [[.data], []] })).map
      (fun s => (registers s, s.rxq, s.feq, s.trace)) =
    some (⟨.capturing, 0, 0, 0, .never⟩, [0x16], [[.data], []], []) := by decide
/-- Vector T6: a byte does not cut the sleep short. -/
theorem test_dWaitSleep : (after (exec .dWaitSleep { inPhase .waiting 1 with rxq := [0x16] })).map
    (fun s => (registers s, s.rxq, s.now)) = some (⟨.waiting, 0, 0, 0, .never⟩, [0x16], 1) := by decide
/-- Vector T7. -/
theorem test_dCapRead_byte : (after (exec .dCapRead { inPhase .capturing 0 with rxq := [0x16, 0x11] })).map
    (fun s => (registers s, s.rxq, s.buf)) =
    some (⟨.capturing, 15, 1, 0, .never⟩, [0x11], [(0, 0x16)]) := by decide
/-- Vector T10: the burst ends and the buffer is untouched. -/
theorem test_dCapRead_end : (after (exec .dCapRead { fullReport with phase := .capturing })).map
    (fun s => (registers s, s.buf)) = some (⟨.evaluating, 0, 20, 7, .never⟩, fullReport.buf) := by decide
/-- Vector T8. -/
theorem test_dCapSettle : (after (exec .dCapSettle { inPhase .capturing 15 with rxq := [0x11], length := 1 })).map
    (fun s => (registers s, s.rxq)) = some (⟨.capturing, 14, 1, 0, .never⟩, [0x11]) := by decide
/-- Vector T12. -/
theorem test_dEval : (after (exec .dEval { fullReport with phase := .evaluating, rxq := [0x16] })).map
    (fun s => (registers s, s.rxq, s.trace)) =
    some (⟨.servicing, 0, 0, 35, .tag .valid⟩, [0x16], [.echo 35, .eval .valid]) := by decide
/-- Vector T13. -/
theorem test_dEval_incomplete : (after (exec .dEval { fullReport with phase := .evaluating, length := 3 })).map
    (fun s => (registers s, s.trace)) =
    some (⟨.servicing, 0, 0, 7, .tag .incomplete⟩, [.eval .incomplete]) := by decide
/-- Vector B1. -/
theorem test_deliver : after (exec (.deliver 0x11) { inPhase .capturing 7 with rxq := [0x16] }) =
    some { inPhase .capturing 7 with rxq := [0x16, 0x11] } := by decide
/-- Vector B2. -/
theorem test_post : after (exec (.post 0 .status) { State.reset with feq := [[.data], []] }) =
    some { State.reset with feq := [[.data, .status], []] } := by decide
theorem test_cmdData : (after (exec (.cmdData dataWord) State.reset)).map State.feq = some [[.data], []] := by decide
theorem test_cmdStatus : (after (exec (.cmdStatus statusWord) State.reset)).map State.feq =
    some [[.status], []] := by decide
theorem test_cmdOther : (after (exec (.cmdOther [0x3F]) pendingRequests)).map State.feq =
    some [[.status, .help, .help], [.value]] := by decide
/-- The first two steps of every program of spec/95_test_vectors.md. -/
theorem test_step_two : (after (exec (.step 2) State.reset)).map (fun s => (registers s, s.steps, s.now)) =
    some (⟨.waiting, 1, 0, 0, .never⟩, 2, 0) := by decide
/-- Vector B3. -/
theorem test_reset_in_a_capture :
    (after (exec .reset { inPhase .capturing 9 with
      buf := [(3, 1)], length := 12, reading := 35, lastOutcome := .tag .valid, rxq := [0xAA] })).map
      (fun s => (registers s, s.buf, s.rxq)) = some (⟨.servicing, 0, 0, 0, .never⟩, [], [0xAA]) := by decide
/-- Vector B4. -/
theorem test_reset_with_the_link_down :
    (after (exec .reset { State.reset with
      cfg := { Config.default with linkOk := false }, trace := [.overrun] })).map State.trace =
    some [.linkError] := by decide
/-- A reserved script word is refused and the dispatcher's select without a step is stuck. -/
theorem test_step_stops : after (step { State.reset with script := [.word 0x500] }) = none ∧
    after (step (inPhase .servicing 1)) = none := by decide
/-- `withFetchWord` puts the very instruction next: the text line at the adapter, and a report in the buffer. -/
theorem test_withFetchWord : (after (step (State.reset.withFetchWord 32 0x64617461))).map State.feq =
      some [[.data], []] ∧
    (after (step (State.reset.withFetchWord 160 0x16110B00000023AAAAAAAAAAAAAAAAAAAAAAAAAA))).map
      (fun s => s.reading) = some 35 := by decide
/-- An annotated STEP is checked and not obeyed: the opening of the programs of spec/95_test_vectors.md, and the same with a
wrong branch. -/
theorem test_annotation : runSteps 2 [.dService, .dWaitPoll (some false)] State.reset =
      runSteps 2 [] State.reset ∧
    runSteps 2 [.dService, .dWaitPoll (some true)] State.reset =
      .annotationFailed { State.reset with phase := .waiting, steps := 1 } := ⟨rfl, rfl⟩
/-- `STEP 320` is `0x3FF 0x341`, `REQ 1 VALUE` is `0x20C`, and port 16 has no word but has the text form (R112). -/
theorem test_scriptWords : scriptWords [.step 320, .post 1 .value] = some [0x3FF, 0x341, 0x20C] ∧
    scriptWords [.post 16 .data] = none ∧
    scriptMoves [.post 16 .data, .step 300] = some [.request 16 .data, .word 0x3FF, .word 0x32D] ∧
    scriptMoves [.cmdOther []] = some [.line []] ∧ scriptMoves [.dEval] = none := by decide
/-- A repeating supply starts again when its moves are used up. -/
theorem test_cycle : (after (machineSteps 3 { State.reset with supply := .cycle [.word 0x116, .word 0x301] })).map
    (fun s => (s.rxq, s.script)) = some ([0x16, 0x16], [.word 0x301]) := by decide
/-- An offer that is not enabled leaves the turn to the dispatcher (R204, R206). -/
theorem test_offer : State.reset.offer (.post 2 .data) = none ∧
    State.offer { State.reset with cfg := { Config.default with linkOk := false } } (.deliver 1) = none ∧
    State.reset.offer (.deliver 1) = some (.deliver 1) := by decide
/-- The canonical form after a write of zero: the cell is not listed. -/
theorem test_writeCell_zero : writeCell [(0, 0x16), (3, 1)] 3 0 = [(0, 0x16)] ∧ Memory.wf State.reset.buf = true := by
  decide

/-! ### Witnesses: the hypotheses of each statement met together, clause by clause, at the boundaries of their ranges -/

/-- The reset state with pending moves. -/
def withScript (moves : List Move) : State := { State.reset with script := moves }

/-- The reset state with a fill count. -/
def filled (n : FillCount) : State := { State.reset with length := n }

/-- A capture with a fill count and waiting bytes. -/
def capturing (n : FillCount) (bytes : List Byte) : State := { inPhase .capturing 0 with length := n, rxq := bytes }

/-- Both request queues one deep, and the byte queue too, with this much in them. -/
def bounded (bytes : List Byte) (queues : List (List Kind)) : State :=
  { State.reset with
    cfg := { Config.default with rxqDepth := some 1, feqDepth := some 1 }, rxq := bytes, feq := queues }

/-- The 20 bytes of vector S2's frame. -/
def reportBytes : List Byte := [0x16, 0x11, 0x0B, 0x00, 0x00, 0x00, 0x23] ++ List.replicate 13 0xAA

theorem reset_inv : State.reset.Inv :=
  ⟨rfl, by decide, fun _ _ => rfl, fun _ => rfl, fun _ => Nat.zero_le _, fun _ => Nat.zero_le _, fun _ => ⟨rfl, rfl⟩⟩

/-- It is the dispatcher's turn in every state with a silent supply and no script, such as these. -/
theorem turn_inPhase (ph : Phase) (timer : Nat) : (inPhase ph timer).dispatcherTurn := ⟨rfl, rfl⟩
theorem turn_capturing (n : FillCount) (bytes : List Byte) : (capturing n bytes).dispatcherTurn := ⟨rfl, rfl⟩

theorem witness_StepRunsTheDecodedInstruction :
    (State.reset.dispatcherTurn ∧
      decode (.dsel (State.reset.phase.code ++ if State.reset.timer = 0 then 0#1 else 1#1)) = .instr .dService) ∧
    ((withScript [.word 0x116]).pending = [.word 0x116] ∧ decode (.stim12 0x116) = .instr (.deliver 0x16)) ∧
    ({ State.reset with supply := .cycle [.word 0x116] }.pending = [.word 0x116]) ∧
    ((withScript [.line [0x3F]]).pending = [.line [0x3F]] ∧ decode (.text [0x3F]) = .instr (.cmdOther [0x3F])) ∧
    (withScript [.request 1 .page]).pending = [.request 1 .page] ∧
    (withScript [.route .bareValue]).pending = [.route .bareValue] ∧
    ({ State.reset with supply := .free 0 }.pending = [] ∧ { State.reset with supply := .free 0 }.supply = .free 0 ∧
      decode (.dsel { State.reset with supply := .free 0 }.dsel) = .instr .dService) :=
  ⟨⟨⟨rfl, rfl⟩, by decide⟩, by decide⟩
theorem witness_ReservedWordsStopTheRun :
    (∀ ph, ph = Phase.servicing ∨ ph = Phase.evaluating → (inPhase ph 1).dispatcherTurn ∧ (inPhase ph 1).phase = ph ∧
      (inPhase ph 1).timer ≠ 0) ∧
    (withScript [.word 0x000]).pending = [.word 0x000] ∧ decode (.stim12 0x000) = .reject .reservedStatement ∧
    decode (.stim12 0x500) = .reject .reservedStatement ∧ decode (.stim12 0x300) = .reject .zeroSteps :=
  ⟨fun ph _ => ⟨turn_inPhase ph 1, rfl, Nat.one_ne_zero⟩, by decide⟩
theorem witness_EachSelectRunsItsStep (ph : Phase) : (inPhase ph 0).dispatcherTurn ∧ (inPhase ph 0).phase = ph ∧
    (inPhase ph 0).timer = 0 ∧ (inPhase ph 1).dispatcherTurn ∧ (inPhase ph 1).phase = ph ∧ 0 < (inPhase ph 1).timer :=
  ⟨turn_inPhase ph 0, rfl, rfl, turn_inPhase ph 1, rfl, Nat.one_pos⟩
theorem witness_DisabledStepsAreRefused :
    ¬((inPhase .servicing 1).phase = .servicing ∧ (inPhase .servicing 1).timer = 0) ∧
    ¬((inPhase .waiting 1).phase = .waiting ∧ (inPhase .waiting 1).timer = 0) ∧
    ¬((inPhase .waiting 0).phase = .waiting ∧ (inPhase .waiting 0).timer ≠ 0) ∧
    ¬((inPhase .capturing 1).phase = .capturing ∧ (inPhase .capturing 1).timer = 0) ∧
    ¬((inPhase .capturing 0).phase = .capturing ∧ (inPhase .capturing 0).timer ≠ 0) ∧
    ¬((inPhase .waiting 0).phase = .evaluating ∧ (inPhase .waiting 0).timer = 0) := by decide
theorem witness_EachPortIsAnsweredOnceInOrder :
    (∃ t, exec .serviceAll pendingRequests = .next t) ∧ 0 < pendingRequests.feq.length ∧
    1 < pendingRequests.feq.length := ⟨⟨_, rfl⟩, by decide⟩
theorem witness_RequestsAreAnsweredByKind : 0 < State.reset.feq.length ∧ 1 < State.reset.feq.length := by decide
theorem witness_AbsentPortsAreRefused : State.reset.feq.length ≤ 2 ∧
    { State.reset with feq := [] }.feq.length ≤ { State.reset with feq := [] }.cfg.textPort := by decide
theorem witness_ServiceStepServesThenWaits :
    (inPhase .servicing 0).phase = .servicing ∧ (inPhase .servicing 0).timer = 0 := by decide
theorem witness_PollPrefersTheByte : (inPhase .waiting 0).phase = .waiting ∧ (inPhase .waiting 0).timer = 0 ∧
    (inPhase .waiting 0).rxq = [] ∧ { inPhase .waiting 0 with rxq := [0x16] }.rxq ≠ [] := by decide
theorem witness_SleepsCountDownOneTick : (inPhase .waiting 1).phase = .waiting ∧ 0 < (inPhase .waiting 1).timer ∧
    (inPhase .capturing 1).phase = .capturing ∧ 0 < (inPhase .capturing 1).timer := by decide
theorem witness_CaptureReadsOneByte (n : FillCount) : (capturing n [0x16]).phase = .capturing ∧
    (capturing n [0x16]).timer = 0 ∧ (capturing n [0x16]).rxq = 0x16 :: [] ∧ Memory.wf (capturing n [0x16]).buf = true ∧
    (capturing n [0x16]).length = n := ⟨rfl, rfl, rfl, rfl, rfl⟩
theorem witness_CaptureReadsOneByte_lengths : (capturing 0 []).length.toNat < 20 ∧ (capturing 19 []).length.toNat < 20 ∧
    (capturing 20 []).length.toNat = 20 := by decide
theorem witness_CaptureEndsAtAnEmptyPoll :
    (capturing 20 []).phase = .capturing ∧ (capturing 20 []).timer = 0 ∧ (capturing 20 []).rxq = [] := by decide
theorem witness_CaptureReadIssuesAppend : (capturing 20 [0x16]).phase = .capturing ∧ (capturing 20 [0x16]).timer = 0 ∧
    (capturing 20 [0x16]).rxq = 0x16 :: [] := by decide
theorem witness_EvaluationStepGoesToServicing :
    (inPhase .evaluating 0).phase = .evaluating ∧ (inPhase .evaluating 0).timer = 0 ∧
    (inPhase .evaluating 0).length.toNat ≤ 20 ∧ { inPhase .evaluating 0 with length := 20 }.length.toNat ≤ 20 := by
  decide
theorem witness_AppendStoresAtTheFillCount : Memory.wf (filled 0).buf = true ∧ (filled 0).length.toNat < 20 ∧
    Memory.wf (filled 19).buf = true ∧ (filled 19).length.toNat < 20 := by decide
theorem witness_AppendRefusesAtCapacity : fullReport.length.toNat = 20 := by decide
theorem witness_IllegalFillCountIsStuck : 20 < (filled 21).length.toNat ∧ 20 < (filled 31).length.toNat := by decide
theorem witness_EvaluateAcceptsAReport : fullReport.length.toNat = 20 ∧ readCell fullReport.buf 0 = 0x16 ∧
    readCell fullReport.buf 1 = 0x11 ∧ readCell fullReport.buf 2 = 0x0B ∧ readCell fullReport.buf 3 = 0x00 ∧
    readCell fullReport.buf 4 = 0x00 := by decide
theorem witness_EvaluateDiscardsAnyOtherHeader : (filled 20).length.toNat = 20 ∧
    ¬(readCell (filled 20).buf 0 = 0x16 ∧ readCell (filled 20).buf 1 = 0x11 ∧ readCell (filled 20).buf 2 = 0x0B ∧
      readCell (filled 20).buf 3 = 0x00 ∧ readCell (filled 20).buf 4 = 0x00) := by decide
theorem witness_EvaluateDiscardsAShortCapture : (filled 0).length.toNat < 20 ∧ (filled 19).length.toNat < 20 := by
  decide
theorem witness_EvaluateAgreesWithTheFrameDecoder :
    decode (.frame20 0x16110B00000023AAAAAAAAAAAAAAAAAAAAAAAAAA#160) =
      .instr (.pm25Report 0x0023 0xAAAAAAAAAAAAAAAAAAAAAAAAAA) ∧
    decode (.frame20 0x16110B00010023AAAAAAAAAAAAAAAAAAAAAAAAAA#160) = .reject .headerMismatch := by decide
theorem witness_TrailerIsIgnored : ∀ a, a < 7 →
    readCell [(0, 0x16), (1, 0x11), (2, 0x0B), (6, 0x23), (7, 0xAA), (19, 0xAA)] a = readCell fullReport.buf a := by
  decide
theorem witness_MemReadAfterMemWrite :
    Memory.wf fullReport.buf = true ∧ 19 + 1 ≤ 20 ∧ 0 + 20 ≤ 20 ∧ 20 < 20 + 1 ∧ 20 < 19 + 2 := by decide
theorem witness_EmptyRxReadIsRefused :
    State.reset.rxq = [] ∧ (capturing 0 [0x16, 0x11]).rxq = 0x16 :: [0x11] := by decide
theorem witness_DeliverQueuesTheByte :
    (State.reset.cfg.linkOk = true ∧ ∀ d, State.reset.cfg.rxqDepth = some d → State.reset.rxq.length < d) ∧
    (bounded [] [[], []]).cfg.linkOk = true ∧
    ∀ d, (bounded [] [[], []]).cfg.rxqDepth = some d → (bounded [] [[], []]).rxq.length < d :=
  ⟨⟨rfl, (fun d h => by cases h)⟩, rfl, fun d h => by cases h; decide⟩
theorem witness_MovesAreRefusedWhenNotEnabled :
    { Config.default with linkOk := false }.linkOk = false ∧
    ((bounded [0x16] [[], []]).cfg.linkOk = true ∧ (bounded [0x16] [[], []]).cfg.rxqDepth = some 1 ∧
      1 ≤ (bounded [0x16] [[], []]).rxq.length) ∧
    (1 < (bounded [] [[], [.page]]).feq.length ∧ (bounded [] [[], [.page]]).cfg.feqDepth = some 1 ∧
      1 ≤ ((bounded [] [[], [.page]]).queue 1).length) ∧
    ((bounded [] [[.data], []]).cfg.textPort < (bounded [] [[.data], []]).feq.length ∧
      (bounded [] [[.data], []]).cfg.feqDepth = some 1 ∧
      1 ≤ ((bounded [] [[.data], []]).queue (bounded [] [[.data], []]).cfg.textPort).length) := by decide
theorem witness_PostQueuesTheRequest :
    (1 < State.reset.feq.length ∧ ∀ d, State.reset.cfg.feqDepth = some d → (State.reset.queue 1).length < d) ∧
    1 < (bounded [] [[.data], []]).feq.length ∧
    ∀ d, (bounded [] [[.data], []]).cfg.feqDepth = some d → ((bounded [] [[.data], []]).queue 1).length < d :=
  ⟨⟨by decide, (fun d h => by cases h)⟩, by decide, fun d h => by cases h; decide⟩
theorem witness_TextCommandsPostTheirKind : State.reset.cfg.textPort < State.reset.feq.length ∧
    (∀ d, State.reset.cfg.feqDepth = some d → (State.reset.queue State.reset.cfg.textPort).length < d) ∧
    ((.cmdOther [0x3F], .help) : Instr × Kind) ∈
      [(Instr.cmdData [0x3F], Kind.data), (.cmdStatus [0x3F], .status), (.cmdOther [0x3F], .help)] :=
  ⟨by decide, (fun d h => by cases h), by decide⟩
theorem witness_BoundaryMovesTouchNoRegister : (∃ t, exec (.deliver 0x16) State.reset = .next t) ∧
    (∃ t, exec (.post 1 .page) State.reset = .next t) ∧ (∃ t, exec (.cmdData dataWord) State.reset = .next t) ∧
    (∃ t, exec (.cmdStatus statusWord) State.reset = .next t) ∧ ∃ t, exec (.cmdOther []) State.reset = .next t :=
  ⟨⟨_, rfl⟩, ⟨_, rfl⟩, ⟨_, rfl⟩, ⟨_, rfl⟩, ⟨_, rfl⟩⟩
theorem witness_StepCountsAreRepeatedSteps : (inPhase .waiting 1).dispatcherTurn := turn_inPhase .waiting 1
theorem witness_EveryStepKeepsTheInvariants : State.reset.Inv ∧ ∃ t, step State.reset = .next t := ⟨reset_inv, _, rfl⟩
theorem witness_TheDispatcherIsNeverStuck : State.reset.Inv ∧ State.reset.pending = [] ∧
    { State.reset with supply := .free 0 }.pending = [] := ⟨reset_inv, rfl, rfl⟩
theorem witness_TheRunHasNoEnd : State.reset.Inv := reset_inv
theorem witness_PhaseTransitions :
    (∃ t, step (inPhase .servicing 0) = .next t) ∧ (∃ t, step (inPhase .waiting 0) = .next t) ∧
    (∃ t, step { inPhase .waiting 0 with rxq := [0x16] } = .next t) ∧ (∃ t, step (inPhase .waiting 1) = .next t) ∧
    (∃ t, step (capturing 20 [0x16]) = .next t) ∧ (∃ t, step (capturing 0 []) = .next t) ∧
    (∃ t, step (inPhase .capturing 1) = .next t) ∧ (∃ t, step (inPhase .evaluating 0) = .next t) ∧
    (∀ ph timer, (inPhase ph timer).dispatcherTurn) ∧ ∀ n bytes, (capturing n bytes).dispatcherTurn :=
  ⟨⟨_, rfl⟩, ⟨_, rfl⟩, ⟨_, rfl⟩, ⟨_, rfl⟩, ⟨_, rfl⟩, ⟨_, rfl⟩, ⟨_, rfl⟩, ⟨_, rfl⟩, turn_inPhase, turn_capturing⟩
theorem witness_ReadingHasOneWriter : State.dispatcherTurn { fullReport with phase := .evaluating } ∧
    ∃ t, step { fullReport with phase := .evaluating } = .next t ∧ t.reading ≠ fullReport.reading :=
  ⟨⟨rfl, rfl⟩, _, rfl, by decide⟩
theorem witness_NoServiceDuringACapture :
    ((capturing 20 [0x16]).dispatcherTurn ∧ (capturing 20 [0x16]).phase = .capturing ∧
      ∃ t, step (capturing 20 [0x16]) = .next t) ∧
    (inPhase .evaluating 0).dispatcherTurn ∧ (inPhase .evaluating 0).phase = .evaluating ∧
    ∃ t, step (inPhase .evaluating 0) = .next t :=
  ⟨⟨turn_capturing _ _, rfl, _, rfl⟩, turn_inPhase _ _, rfl, _, rfl⟩
theorem witness_BytesStayUntilRead :
    ((capturing 0 [0x16]).dispatcherTurn ∧ rxRd (capturing 0 [0x16]) = true ∧
      ∃ t, step (capturing 0 [0x16]) = .next t) ∧
    State.dispatcherTurn { inPhase .waiting 0 with rxq := [0x16] } ∧
    rxRd { inPhase .waiting 0 with rxq := [0x16] } = false ∧
    ∃ t, step { inPhase .waiting 0 with rxq := [0x16] } = .next t :=
  ⟨⟨turn_capturing _ _, by decide, _, rfl⟩, ⟨rfl, rfl⟩, by decide, _, rfl⟩
theorem witness_ParametersAreNeverWritten : (∃ t, step State.reset = .next t) ∧
    ∃ t, step (withScript [.word 0x400]) = .next t := ⟨⟨_, rfl⟩, _, rfl⟩
theorem witness_RecordsSteerNothing (s : State) : sameButRecords s { s with
    lastOutcome := .tag .valid, trace := [.overrun], now := 9, steps := 9, opResult := some (.value 1) } := rfl
theorem witness_RecordsSteerNothing_outcomes : (∃ t, step State.reset = .next t) ∧
    step (inPhase .servicing 1) = .fault .stuckDsel ∧ step (withScript [.word 0]) = .refused .reservedWord :=
  ⟨⟨_, rfl⟩, rfl, rfl⟩
theorem witness_FillCountAfterABurst : State.reset.buf = [] ∧ State.reset.length = 0 := ⟨rfl, rfl⟩
theorem witness_CaptureTakesOneBytePerDelay :
    (capturing 20 [0x16, 0x11]).phase = .capturing ∧ (capturing 20 [0x16, 0x11]).timer = 0 ∧
    (capturing 20 [0x16, 0x11]).rxq = [0x16] ++ [0x11] ∧ (capturing 20 [0x16, 0x11]).rxq = [] ++ [0x16, 0x11] ∧
    (∃ t, appendAll [0x16] (capturing 20 [0x16, 0x11]) = .next t) ∧
    ∃ t, appendAll [] (capturing 20 [0x16, 0x11]) = .next t := ⟨rfl, rfl, rfl, rfl, ⟨_, rfl⟩, _, rfl⟩
theorem witness_WholeFrameIsDecoded :
    let s : State := { inPhase .waiting 0 with rxq := reportBytes }
    s.phase = .waiting ∧ s.timer = 0 ∧ s.buf = [] ∧ s.length = 0 ∧ (List.replicate 13 (0xAA : Byte)).length = 13 ∧
    s.rxq = [0x16, 0x11, 0x0B, 0x00, 0x00, 0x00, 0x23] ++ List.replicate 13 0xAA :=
  ⟨rfl, rfl, rfl, rfl, rfl, rfl⟩
theorem witness_FrameValueReachesTheFrontEnds :
    (inPhase .evaluating 0).phase = .evaluating ∧ (inPhase .evaluating 0).timer = 0 := ⟨rfl, rfl⟩
theorem witness_DelaysRunOut :
    (inPhase .waiting 1).phase = .waiting ∧ (inPhase .capturing 15).phase = .capturing := ⟨rfl, rfl⟩
/-- The endless sender, with the byte queue unbounded and one deep. -/
theorem witness_ASenderThatNeverPausesIsCapturedForEver :
    let s (depth : Option Nat) : State := { inPhase .capturing 0 with
      cfg := { Config.default with rxqDepth := depth }
      supply := .cycle (.word (0x1#4 ++ 0x16#8) :: List.replicate (1 + 15) (.word 0x301)) }
    ∀ depth, depth = none ∨ depth = some 1 →
      (s depth).Inv ∧ (s depth).phase = .capturing ∧ (s depth).timer = 0 ∧ (s depth).rxq = [] ∧ (s depth).script = [] ∧
      (s depth).cfg.linkOk = true ∧ (∀ d, (s depth).cfg.rxqDepth = some d → 0 < d) ∧
      (s depth).supply =
        .cycle (.word (0x1#4 ++ 0x16#8) :: List.replicate (1 + (s depth).cfg.tSettle) (.word 0x301)) := by
  intro s depth h
  refine ⟨⟨rfl, Nat.zero_le _, fun _ _ => rfl, fun _ => rfl, fun _ => Nat.zero_le _, fun _ => Nat.zero_le _,
    fun _ => ⟨rfl, rfl⟩⟩, rfl, rfl, rfl, rfl, rfl, ?_, rfl⟩
  rintro d rfl
  rcases h with h | h <;> cases h
  exact Nat.one_pos
theorem witness_DecodeOfEncode : (Instr.post 15 .value).wellFormed = true ∧ (Instr.step 1).wellFormed = true ∧
    (Instr.step 255).wellFormed = true ∧ (Instr.cmdOther []).wellFormed = true := by decide
theorem witness_EncodeOfDecode : decode (.stim12 0x27C) = .instr (.post 15 .value) ∧
    decode (.op3 1 0x00FF) = .instr (.append 0xFF) := by decide
theorem witness_ReservedCodesAreRejected : (0x0FF#12).extractLsb' 8 4 = 0 ∧ 5 ≤ ((0x5FF#12).extractLsb' 8 4).toNat ∧
    5 ≤ ((0xF00#12).extractLsb' 8 4).toNat ∧ 5 ≤ (5#3).toNat ∧ 5 ≤ (7#3).toNat ∧ (1 : Byte) ≠ 0 := by decide

end Sys2Proof.Tests
end

section
/-! Settles the obligation about MemRead and MemWrite (O26). -/

namespace Sys2Proof.Machine

open Sys2Proof

/-- A write of one cell past a range does not change what MemRead gives for the range. -/
theorem memBits_writeCell_past {m : List Host.Cell} (h : Memory.wf m = true) (a n : Nat) (b : Byte) :
    memBits (writeCell m (a + n) b) a n = memBits m a n :=
  memBits_congr a n fun _ _ lt => readCell_writeCell_other h (Nat.ne_of_lt lt) b

/-- MemRead of the cells just written gives the number written (spec/00_scope.md R12). -/
theorem memBits_writeBits {m : List Host.Cell} (h : Memory.wf m = true) (a n : Nat) (le : a + n ≤ 20)
    (v : BitVec (8 * n)) : memBits (writeBits m a n v) a n = v := by
  induction n with
  | zero => exact BitVec.eq_of_zero_length rfl
  | succ n ih =>
    have hwf := writeBits_wf h a n (by omega) (v.extractLsb' 8 (8 * n))
    rw [memBits, writeBits, memBits_writeCell_past hwf, ih (by omega), readCell_writeCell_self hwf]
    exact BitVec.extractLsb'_append_extractLsb' (w := 8 * n) (len := 8)

/-- MemWrite inside cells 0 to 19 answers the state with the bytes written, and nothing else changed. -/
theorem memWrite_inside {a n : Nat} (le : a + n ≤ 20) (s : State) (v : BitVec (8 * n)) :
    memWrite s a n v = .next { s with buf := writeBits s.buf a n v } := if_pos le

/-- MemRead inside cells 0 to 19 gives the bytes there. -/
theorem memRead_inside {a n : Nat} (le : a + n ≤ 20) (s : State) : memRead s a n = some (memBits s.buf a n) :=
  if_pos le

/-- MemWrite beyond cell 19 finds no cell (spec/20_memory.md R68). -/
theorem memWrite_outside {a n : Nat} (lt : 20 < a + n) (s : State) (v : BitVec (8 * n)) :
    memWrite s a n v = .fault .noSuchCell := if_neg (Nat.not_le_of_lt lt)

/-- MemRead beyond cell 19 gives nothing (spec/20_memory.md R68). -/
theorem memRead_outside {a n : Nat} (lt : 20 < a + n) (s : State) : memRead s a n = none :=
  if_neg (Nat.not_le_of_lt lt)

/-- Settles O26: the value read back is an induction on the number of bytes (`memBits_writeBits`), and the other cells
are outside every cell write of the range (`readCell_writeBits_outside`). -/
theorem memReadAfterMemWrite : Obligations.MemReadAfterMemWrite := by
  intro s a n v hwf
  constructor
  · intro le
    refine ⟨writeBits s.buf a n v, memWrite_inside le s v, ?_, ?_⟩
    · rw [memRead_inside le, memBits_writeBits hwf a n le]
    · intro c outside
      exact readCell_writeBits_outside hwf a n le v outside
  · intro lt
    exact ⟨memWrite_outside lt s v, memRead_outside lt s⟩

end Sys2Proof.Machine
end

section
/-! What a dispatcher step can be, said once, and whose step a turn of the machine is. -/

namespace Sys2Proof.Machine

open Sys2Proof

/-- The effects a dispatcher step can have, each under the select that enables it (spec/41_dispatch.md R152 to R157). -/
inductive DispatcherMove (s : State) : State → Prop where
  | service (sel : s.dsel = 0b000) : DispatcherMove s (counted 0 { serviceAll s with phase := .waiting })
  | pollByte (sel : s.dsel = 0b010) (avail : s.rxq ≠ []) : DispatcherMove s (counted 0 { s with phase := .capturing })
  | pollIdle (sel : s.dsel = 0b010) (idle : s.rxq = []) :
    DispatcherMove s (counted 0 { serviceAll s with timer := s.cfg.tYield })
  | sleep (sel : s.dsel = 0b011 ∨ s.dsel = 0b101) : DispatcherMove s (sleepTick s)
  | read {b : Byte} {rest : List Byte} {u : State} (sel : s.dsel = 0b100) (head : s.rxq = b :: rest)
    (append : appendByte b { s with rxq := rest } = .next u) :
    DispatcherMove s (counted 0 { u with timer := u.cfg.tSettle })
  | endCapture (sel : s.dsel = 0b100) (idle : s.rxq = []) : DispatcherMove s (counted 0 { s with phase := .evaluating })
  | evaluate {u : State} (sel : s.dsel = 0b110) (eval : evaluateFrame s = .next u) :
    DispatcherMove s (counted 0 { u with phase := .servicing })

theorem execDService_move {s t : State} (h : execDService s = .next t) : DispatcherMove s t := by
  obtain ⟨sel, ⟨⟩⟩ := whenSelected_next h
  exact .service sel

theorem execDWaitPoll_move {s t : State} (h : execDWaitPoll s = .next t) : DispatcherMove s t := by
  obtain ⟨sel, k⟩ := whenSelected_next h
  cases hq : s.rxq with
  | nil =>
    rw [rxAvail_nil hq] at k
    cases k
    exact .pollIdle sel hq
  | cons b rest =>
    rw [rxAvail_cons hq] at k
    cases k
    exact .pollByte sel (hq ▸ List.cons_ne_nil b rest)

theorem execDWaitSleep_move {s t : State} (h : execDWaitSleep s = .next t) : DispatcherMove s t := by
  obtain ⟨sel, ⟨⟩⟩ := whenSelected_next h
  exact .sleep (.inl sel)

theorem execDCapRead_move {s t : State} (h : execDCapRead s = .next t) : DispatcherMove s t := by
  obtain ⟨sel, k⟩ := whenSelected_next h
  cases hq : s.rxq with
  | nil =>
    rw [rxAvail_nil hq] at k
    cases k
    exact .endCapture sel hq
  | cons b rest =>
    rw [rxAvail_cons hq, if_pos rfl, withRxRead_cons hq] at k
    obtain ⟨u, append, ⟨⟩⟩ := andThen_next.1 k
    exact .read sel hq append

theorem execDCapSettle_move {s t : State} (h : execDCapSettle s = .next t) : DispatcherMove s t := by
  obtain ⟨sel, ⟨⟩⟩ := whenSelected_next h
  exact .sleep (.inr sel)

theorem execDEval_move {s t : State} (h : execDEval s = .next t) : DispatcherMove s t := by
  obtain ⟨sel, k⟩ := whenSelected_next h
  obtain ⟨u, eval, ⟨⟩⟩ := andThen_next.1 k
  exact .evaluate sel eval

/-- The dispatcher's own step is one of the moves. -/
theorem dispatcherStep_move {s t : State} (h : dispatcherStep s = .next t) : DispatcherMove s t := by
  rcases dispatcherStep_cases h with ⟨-, -, h⟩ | ⟨-, -, h⟩ | ⟨-, -, h⟩ | ⟨-, -, h⟩ | ⟨-, -, h⟩ | ⟨-, -, h⟩
  · exact execDService_move h
  · exact execDWaitPoll_move h
  · exact execDWaitSleep_move h
  · exact execDCapRead_move h
  · exact execDCapSettle_move h
  · exact execDEval_move h

/-- On the dispatcher's turn the machine's step is the dispatcher's own (spec/30_encoding.md R102). -/
theorem step_of_dispatcherTurn {s : State} (turn : s.dispatcherTurn) : step s = dispatcherStep (taken s) := by
  obtain ⟨pending, offered⟩ := turn
  simp only [step, nextInstr, rejected, pending, offered, dispatcherStep, decode, State.dsel, taken_phase, taken_timer]
  cases s.timer with
  | zero => cases s.phase <;> rfl
  | succ n =>
    rw [if_neg n.succ_ne_zero]
    cases s.phase <;> rfl

/-- A step that answers a next state has executed an instruction. -/
theorem step_next {s t : State} (h : step s = .next t) : ∃ i, exec i (taken s) = .next t := by
  unfold step at h
  split at h
  · exact ⟨_, h⟩
  · unfold rejected at h
    split at h <;> cases h

/-! ### The service pass -/

theorem servePort_succ_of_nil {s : State} {p : Nat} (h : s.queue p = []) (n : Nat) : servePort p (n + 1) s = s := by
  simp [servePort, popRequest, h]

theorem servePort_succ_of_cons {s : State} {p : Nat} {k : Kind} {rest : List Kind} (h : s.queue p = k :: rest)
    (n : Nat) : servePort p (n + 1) s = servePort p n (serve p k { s with feq := s.feq.set p rest }) := by
  simp [servePort, popRequest, h]

/-- The service of one port keeps the number of ports. -/
theorem servePort_nfe (p n : Nat) (s : State) : (servePort p n s).feq.length = s.feq.length := by
  induction n generalizing s with
  | zero => rfl
  | succ n ih =>
    cases h : s.queue p with
    | nil => rw [servePort_succ_of_nil h]
    | cons k rest => rw [servePort_succ_of_cons h, ih, serve_eq, List.length_set]

/-- The service of a list of ports touches the queues and the trace, and nothing else. -/
theorem servePorts_frame (ps : List Nat) (s : State) :
    servePorts ps s = { s with feq := (servePorts ps s).feq, trace := (servePorts ps s).trace } := by
  induction ps generalizing s with
  | nil => rfl
  | cons p ps ih =>
    rw [servePorts, ih, servePort_frame]

theorem servePorts_nfe (ps : List Nat) (s : State) : (servePorts ps s).feq.length = s.feq.length := by
  induction ps generalizing s with
  | nil => rfl
  | cons p ps ih => rw [servePorts, ih, servePort_nfe]

@[simp] theorem serviceAll_rxq (s : State) : (serviceAll s).rxq = s.rxq := by rw [serviceAll, servePorts_frame]

@[simp] theorem serviceAll_cfg (s : State) : (serviceAll s).cfg = s.cfg := by rw [serviceAll, servePorts_frame]

@[simp] theorem serviceAll_nfe (s : State) : (serviceAll s).feq.length = s.feq.length := servePorts_nfe _ _

/-! ### The framer -/

theorem appendByte_of_illegal {s : State} (gt : 20 < s.length.toNat) (b : Byte) :
    appendByte b s = .fault .stuckLength := by
  unfold appendByte
  rw [if_neg (by rw [lengthLegal_iff]; omega)]

theorem evaluateFrame_of_illegal {s : State} (gt : 20 < s.length.toNat) :
    evaluateFrame s = .fault .stuckLength := by
  unfold evaluateFrame
  rw [if_neg (by rw [lengthLegal_iff]; omega)]

/-- APPEND touches the buffer, its fill count and the trace, and nothing else (spec/40_framer.md R131). -/
theorem appendByte_frame {b : Byte} {s t : State} (h : appendByte b s = .next t) :
    t = { s with buf := t.buf, length := t.length, trace := t.trace } := by
  rcases appendByte_next h with ⟨-, rfl⟩ | ⟨-, rfl⟩ <;> rfl

/-- EVALUATE touches the buffer, its fill count, the reading, the outcome and the trace, and nothing else
(spec/40_framer.md R132). -/
theorem evaluateFrame_frame {s t : State} (h : evaluateFrame s = .next t) :
    t = { s with
      buf := t.buf, length := t.length, reading := t.reading, lastOutcome := t.lastOutcome, trace := t.trace } := by
  obtain ⟨-, ⟨-, rfl⟩ | ⟨-, rfl⟩⟩ := evaluateFrame_next h <;> rfl

/-! ### RESET -/

/-- The block after RESET, register by register (spec/70_reset_and_hazards.md R260). -/
theorem resetBlock_eq (s : State) : resetBlock s = { s with
    buf := [], length := 0, reading := s.cfg.readingReset, lastOutcome := .never, phase := .servicing, timer := 0
    trace := if s.cfg.linkOk then [] else [.linkError]
    now := 0, steps := 0, opResult := none } := by
  unfold resetBlock
  split <;> simp [*, clearFrame, emit]

end Sys2Proof.Machine
end

section
/-! Settles O47: the records steer nothing. The proof is a simulation: every operation takes states that differ at most in
the records to outcomes that again differ at most there. -/

namespace Sys2Proof.Machine

open Sys2Proof

section Records

variable {s t : State}

/-- Two states alike but for the records are one state with other records. -/
theorem sameButRecords_iff_exists : sameButRecords s t ↔ ∃ (o : LastOutcome) (tr : List Event) (n k : Nat)
    (r : Option OpResult), t = { s with lastOutcome := o, trace := tr, now := n, steps := k, opResult := r } := by
  constructor
  · intro h
    exact ⟨_, _, _, _, _, h⟩
  · rintro ⟨o, tr, n, k, r, rfl⟩
    rfl

/-- Outcomes that differ at most in the records of their next states. -/
inductive SameOutcome : Out → Out → Prop where
  | next {s t : State} (h : sameButRecords s t) : SameOutcome (.next s) (.next t)
  | fault (f : Fault) : SameOutcome (.fault f) (.fault f)
  | refused (r : Refusal) : SameOutcome (.refused r) (.refused r)

/-- What alike outcomes are, one outcome at a time. -/
theorem SameOutcome.each_alike {o o' : Out} (h : SameOutcome o o') :
    (∀ s', o = .next s' → ∃ t', o' = .next t' ∧ sameButRecords s' t') ∧
    (∀ f, o = .fault f → o' = .fault f) ∧ (∀ r, o = .refused r → o' = .refused r) := by
  cases h with
  | next h =>
    refine ⟨?_, ?_, ?_⟩ <;> rintro _ ⟨⟩
    exact ⟨_, rfl, h⟩
  | fault f =>
    refine ⟨?_, ?_, ?_⟩ <;> rintro _ ⟨⟩
    rfl
  | refused r =>
    refine ⟨?_, ?_, ?_⟩ <;> rintro _ ⟨⟩
    rfl

/-- An operation that the records do not steer. -/
def RecordBlind (f : State → Out) : Prop := ∀ ⦃s t : State⦄, sameButRecords s t → SameOutcome (f s) (f t)

/-! ### Updates of the state -/

theorem sameButRecords.emit_congr (h : sameButRecords s t) (e e' : Event) :
    sameButRecords (emit e s) (emit e' t) := by
  rw [h]
  rfl

theorem sameButRecords.counted_congr (h : sameButRecords s t) (n : Nat) :
    sameButRecords (counted n s) (counted n t) := by
  rw [h]
  rfl

theorem sameButRecords.phase_congr (h : sameButRecords s t) (ph : Phase) :
    sameButRecords { s with phase := ph } { t with phase := ph } := by
  rw [h]
  rfl

theorem sameButRecords.timer_congr (h : sameButRecords s t) (n : Config → Nat) :
    sameButRecords { s with timer := n s.cfg } { t with timer := n t.cfg } := by
  rw [h]
  rfl

theorem sameButRecords.rxq_congr (h : sameButRecords s t) (bytes : List Byte) :
    sameButRecords { s with rxq := bytes } { t with rxq := bytes } := by
  rw [h]
  rfl

theorem sameButRecords.setQueue_congr (h : sameButRecords s t) (p : Nat) (ks : List Kind) :
    sameButRecords { s with feq := s.feq.set p ks } { t with feq := t.feq.set p ks } := by
  rw [h]
  rfl

theorem sameButRecords.opResult_congr (h : sameButRecords s t) (r r' : Option OpResult) :
    sameButRecords { s with opResult := r } { t with opResult := r' } := by
  rw [h]
  rfl

theorem sameButRecords.sleepTick_congr (h : sameButRecords s t) : sameButRecords (sleepTick s) (sleepTick t) := by
  rw [h]
  rfl

theorem sameButRecords.taken_congr (h : sameButRecords s t) : sameButRecords (taken s) (taken t) := by
  rw [h]
  rfl

theorem sameButRecords.clearFrame_congr (h : sameButRecords s t) : sameButRecords (clearFrame s) (clearFrame t) := by
  rw [h]
  rfl

theorem sameButRecords.acceptReading_congr (h : sameButRecords s t) (v : Reading) :
    sameButRecords (acceptReading v s) (acceptReading v t) := by
  rw [h]
  rfl

theorem sameButRecords.finishEvaluation_congr (h : sameButRecords s t) (o : EvalTag) :
    sameButRecords (finishEvaluation o s) (finishEvaluation o t) := by
  rw [h]
  rfl

/-! ### The service pass -/

theorem sameButRecords.servePort_congr (h : sameButRecords s t) (p n : Nat) :
    sameButRecords (servePort p n s) (servePort p n t) := by
  induction n generalizing s t with
  | zero => exact h
  | succ n ih =>
    have queue : t.queue p = s.queue p := by rw [h]; rfl
    cases hq : s.queue p with
    | nil => rwa [servePort_succ_of_nil hq, servePort_succ_of_nil (queue.trans hq)]
    | cons k rest =>
      rw [servePort_succ_of_cons hq, servePort_succ_of_cons (queue.trans hq)]
      exact ih ((h.setQueue_congr p rest).emit_congr _ _)

theorem sameButRecords.servePorts_congr (h : sameButRecords s t) (ps : List Nat) :
    sameButRecords (servePorts ps s) (servePorts ps t) := by
  induction ps generalizing s t with
  | nil => exact h
  | cons p ps ih =>
    have queue : t.queue p = s.queue p := by rw [h]; rfl
    rw [servePorts, servePorts, queue]
    exact ih (h.servePort_congr p _)

theorem sameButRecords.serviceAll_congr (h : sameButRecords s t) : sameButRecords (serviceAll s) (serviceAll t) := by
  have nfe : t.nfe = s.nfe := by rw [h]; rfl
  rw [serviceAll, serviceAll, nfe]
  exact h.servePorts_congr _

end Records

/-! ### Combinators of outcomes -/

theorem SameOutcome.ite {c : Prop} [Decidable c] {a a' b b' : Out} (ha : SameOutcome a a') (hb : SameOutcome b b') :
    SameOutcome (if c then a else b) (if c then a' else b') := by
  split
  · exact ha
  · exact hb

theorem SameOutcome.andThen_congr {o o' : Out} {k k' : State → Out} (h : SameOutcome o o')
    (hk : ∀ ⦃s t : State⦄, sameButRecords s t → SameOutcome (k s) (k' t)) :
    SameOutcome (andThen o k) (andThen o' k') := by
  cases h with
  | next h => exact hk h
  | fault f => exact .fault f
  | refused r => exact .refused r

theorem SameOutcome.whenSelected_congr {s t : State} (h : sameButRecords s t) (d : BitVec 3) {o o' : Out}
    (ho : SameOutcome o o') : SameOutcome (whenSelected d s o) (whenSelected d t o') := by
  have sel : t.dsel = s.dsel := by rw [h]; rfl
  unfold whenSelected
  rw [sel]
  exact .ite ho (.refused _)

/-! ### The operations -/

theorem appendByte_recordBlind (b : Byte) : RecordBlind (appendByte b) := by
  intro s t h
  have length : t.length = s.length := by rw [h]
  rcases Nat.lt_trichotomy s.length.toNat 20 with lt | full | gt
  · rw [appendByte_of_lt lt, appendByte_of_lt (length ▸ lt)]
    obtain ⟨_, _, _, _, _, rfl⟩ := sameButRecords_iff_exists.1 h
    exact .next rfl
  · rw [appendByte_of_full full, appendByte_of_full (length ▸ full)]
    exact .next (h.clearFrame_congr.emit_congr _ _)
  · rw [appendByte_of_illegal gt, appendByte_of_illegal (length ▸ gt)]
    exact .fault _

theorem evaluateFrame_recordBlind : RecordBlind evaluateFrame := by
  intro s t h
  have length : t.length = s.length := by rw [h]
  have tag : evalTag t = evalTag s := by rw [h]; rfl
  have buf : t.buf = s.buf := by rw [h]
  rcases Nat.lt_or_ge 20 s.length.toNat with gt | legal
  · rw [evaluateFrame_of_illegal gt, evaluateFrame_of_illegal (length ▸ gt)]
    exact .fault _
  · rw [evaluateFrame_of_legal legal, evaluateFrame_of_legal (length ▸ legal), tag, buf]
    apply SameOutcome.next
    split
    · exact h.acceptReading_congr _
    · exact h.finishEvaluation_congr _

theorem postRequest_recordBlind (p : Nat) (k : Kind) : RecordBlind (postRequest p k) := by
  intro s t h
  obtain ⟨_, _, _, _, _, rfl⟩ := sameButRecords_iff_exists.1 h
  exact .ite (.ite (.next rfl) (.refused _)) (.refused _)

theorem serveRequest_recordBlind (p : Nat) (k : Kind) : RecordBlind (serveRequest p k) := by
  intro s t h
  obtain ⟨_, _, _, _, _, rfl⟩ := sameButRecords_iff_exists.1 h
  exact .ite (.next (h.emit_congr _ _)) (.refused _)

/-- A text command posts on the port that the parameters name. -/
theorem textPost_recordBlind (k : Kind) : RecordBlind fun s => postRequest s.cfg.textPort k s := by
  intro s t h
  have cfg : t.cfg = s.cfg := by rw [h]
  simp only [cfg]
  exact postRequest_recordBlind _ k h

theorem execDeliver_recordBlind (b : Byte) : RecordBlind (execDeliver b) := by
  intro s t h
  obtain ⟨_, _, _, _, _, rfl⟩ := sameButRecords_iff_exists.1 h
  exact .ite (.ite (.next rfl) (.refused _)) (.refused _)

/-! ### The dispatcher -/

theorem execDService_recordBlind : RecordBlind execDService := fun _ _ h =>
  .whenSelected_congr h _ (.next ((h.serviceAll_congr.phase_congr _).counted_congr 0))

theorem execDWaitPoll_recordBlind : RecordBlind execDWaitPoll := by
  intro s t h
  have avail : rxAvail t = rxAvail s := by rw [h]; rfl
  have idle : sameButRecords { serviceAll s with timer := s.cfg.tYield } { serviceAll t with timer := t.cfg.tYield } := by
    simpa using h.serviceAll_congr.timer_congr Config.tYield
  apply SameOutcome.whenSelected_congr h
  rw [avail]
  exact .ite (.next ((h.phase_congr _).counted_congr 0)) (.next (idle.counted_congr 0))

theorem sleepWhen_recordBlind (d : BitVec 3) : RecordBlind fun s => whenSelected d s (.next (sleepTick s)) :=
  fun _ _ h => .whenSelected_congr h d (.next h.sleepTick_congr)

theorem execDCapRead_recordBlind : RecordBlind execDCapRead := by
  intro s t h
  have rxq : t.rxq = s.rxq := by rw [h]
  cases hq : s.rxq with
  | nil =>
    apply SameOutcome.whenSelected_congr h
    rw [rxAvail_nil hq, rxAvail_nil (rxq.trans hq)]
    exact .next ((h.phase_congr _).counted_congr 0)
  | cons b rest =>
    apply SameOutcome.whenSelected_congr h
    rw [rxAvail_cons hq, rxAvail_cons (rxq.trans hq), if_pos rfl, if_pos rfl, withRxRead_cons hq,
      withRxRead_cons (rxq.trans hq)]
    exact (appendByte_recordBlind b (h.rxq_congr rest)).andThen_congr fun u v huv =>
      .next ((huv.timer_congr Config.tSettle).counted_congr 0)

theorem execDEval_recordBlind : RecordBlind execDEval := fun _ _ h =>
  .whenSelected_congr h _ <| (evaluateFrame_recordBlind h).andThen_congr fun _ _ huv =>
    .next ((huv.phase_congr _).counted_congr 0)

theorem dispatcherStep_recordBlind : RecordBlind dispatcherStep := by
  intro s t h
  have phase : t.phase = s.phase := by rw [h]
  have timer : t.timer = s.timer := by rw [h]
  unfold dispatcherStep
  rw [phase, timer]
  split
  · exact execDService_recordBlind h
  · exact .fault _
  · exact execDWaitPoll_recordBlind h
  · exact sleepWhen_recordBlind _ h
  · exact execDCapRead_recordBlind h
  · exact sleepWhen_recordBlind _ h
  · exact execDEval_recordBlind h
  · exact .fault _

theorem dispatcherSteps_recordBlind (n : Nat) : RecordBlind (dispatcherSteps n) := by
  induction n with
  | zero => exact fun _ _ h => .next h
  | succ n ih => exact fun _ _ h => (dispatcherStep_recordBlind h).andThen_congr ih

/-! ### The machine's step -/

theorem exec_recordBlind (i : Instr) : RecordBlind (exec i) := by
  intro s t h
  cases i with
  | pm25Report v trailer => exact .next (h.acceptReading_congr v)
  | dService => exact execDService_recordBlind h
  | dWaitPoll => exact execDWaitPoll_recordBlind h
  | dWaitSleep => exact sleepWhen_recordBlind _ h
  | dCapRead => exact execDCapRead_recordBlind h
  | dCapSettle => exact sleepWhen_recordBlind _ h
  | dEval => exact execDEval_recordBlind h
  | idle => exact .next h
  | append b => exact appendByte_recordBlind b h
  | evaluate => exact (evaluateFrame_recordBlind h).andThen_congr fun _ _ huv => .next (huv.opResult_congr _ _)
  | get => exact .next (h.opResult_congr _ _)
  | set v =>
    obtain ⟨_, _, _, _, _, rfl⟩ := sameButRecords_iff_exists.1 h
    exact .next rfl
  | serviceAll => exact .next h.serviceAll_congr
  | reqData p => exact serveRequest_recordBlind p _ h
  | reqStatus p => exact serveRequest_recordBlind p _ h
  | reqHelp p => exact serveRequest_recordBlind p _ h
  | reqPage p => exact serveRequest_recordBlind p _ h
  | reqValue p => exact serveRequest_recordBlind p _ h
  | cmdData line => exact textPost_recordBlind _ h
  | cmdStatus line => exact textPost_recordBlind _ h
  | cmdOther line => exact textPost_recordBlind _ h
  | deliver b => exact execDeliver_recordBlind b h
  | post p k => exact postRequest_recordBlind p k h
  | step n => exact dispatcherSteps_recordBlind n h
  | reset =>
    apply SameOutcome.next
    obtain ⟨_, _, _, _, _, rfl⟩ := sameButRecords_iff_exists.1 h
    rw [resetBlock_eq, resetBlock_eq]
    rfl

/-- The records choose neither the next instruction nor its operands. -/
theorem sameButRecords.nextInstr_eq {s t : State} (h : sameButRecords s t) : nextInstr t = nextInstr s := by
  obtain ⟨_, _, _, _, _, rfl⟩ := sameButRecords_iff_exists.1 h
  rfl

theorem rejected_recordBlind : RecordBlind rejected := by
  intro s t h
  have pending : t.pending = s.pending := by rw [h]; rfl
  unfold rejected
  rw [pending]
  split
  · exact .fault _
  · exact .refused _

theorem step_recordBlind : RecordBlind step := by
  intro s t h
  unfold step
  rw [h.nextInstr_eq]
  split
  · exact exec_recordBlind _ h.taken_congr
  · exact rejected_recordBlind h

/-- Settles O47: the step itself is one of the operations that the records do not steer (`step_recordBlind`). -/
theorem recordsSteerNothing : Obligations.RecordsSteerNothing :=
  fun _ _ h => (step_recordBlind h).each_alike

end Sys2Proof.Machine
end

section
/-! Settles O45 (the byte queue) and O46 (the parameters and the number of ports). -/

namespace Sys2Proof.Machine

open Sys2Proof

/-! ### The byte queue -/

theorem rxRd_of_dsel_ne {s : State} (h : s.dsel ≠ 0b100) : rxRd s = false := by
  rw [rxRd, decide_eq_false h, Bool.false_and]

theorem rxRd_of_nil {s : State} (h : s.rxq = []) : rxRd s = false := by simp [rxRd, rxAvail_nil h]

theorem rxRd_of_cons {s : State} (sel : s.dsel = 0b100) {b : Byte} {rest : List Byte} (h : s.rxq = b :: rest) :
    rxRd s = true := by simp [rxRd, sel, rxAvail_cons h]

/-- A dispatcher move raises `rx_rd` and takes the oldest byte, or does neither (spec/10_state.md R37). -/
theorem DispatcherMove.rxq_cases {s t : State} (h : DispatcherMove s t) :
    (rxRd s = true ∧ ∃ b, s.rxq = b :: t.rxq) ∨ (rxRd s = false ∧ t.rxq = s.rxq) := by
  cases h with
  | service sel => exact .inr ⟨rxRd_of_dsel_ne (by rw [sel]; decide), serviceAll_rxq s⟩
  | pollByte sel _ => exact .inr ⟨rxRd_of_dsel_ne (by rw [sel]; decide), rfl⟩
  | pollIdle sel _ => exact .inr ⟨rxRd_of_dsel_ne (by rw [sel]; decide), serviceAll_rxq s⟩
  | sleep sel => exact .inr ⟨rxRd_of_dsel_ne (by rcases sel with sel | sel <;> rw [sel] <;> decide), rfl⟩
  | @read b rest u sel head append =>
    have rest_eq : u.rxq = rest := by rw [appendByte_frame append]
    exact .inl ⟨rxRd_of_cons sel head, b, by rw [head, ← rest_eq]; rfl⟩
  | endCapture _ idle => exact .inr ⟨rxRd_of_nil idle, rfl⟩
  | @evaluate u sel eval =>
    have kept : u.rxq = s.rxq := by rw [evaluateFrame_frame eval]
    exact .inr ⟨rxRd_of_dsel_ne (by rw [sel]; decide), kept⟩

/-- Settles O45: on its turn the dispatcher makes one of its moves, and of these only the read touches the byte queue. -/
theorem bytesStayUntilRead : Obligations.BytesStayUntilRead := by
  intro s t turn h
  rw [step_of_dispatcherTurn turn] at h
  have reads : (rxRd s = true ∧ ∃ b, s.rxq = b :: t.rxq) ∨ (rxRd s = false ∧ t.rxq = s.rxq) :=
    (dispatcherStep_move h).rxq_cases
  rcases reads with ⟨rd, b, hb⟩ | ⟨rd, same⟩
  · exact ⟨fun _ => ⟨b, by rw [rxData, hb, List.head?_cons], hb⟩, by simp [rd]⟩
  · exact ⟨by simp [rd], fun _ => same⟩

/-! ### The parameters and the number of ports -/

/-- The parameters and the number of ports of `t` are those of `s` (spec/10_state.md R21). -/
structure SameLaunch (s t : State) : Prop where
  cfg : t.cfg = s.cfg
  ports : t.feq.length = s.feq.length

theorem SameLaunch.trans {s t u : State} (h : SameLaunch s t) (k : SameLaunch t u) : SameLaunch s u :=
  ⟨k.cfg.trans h.cfg, k.ports.trans h.ports⟩

theorem serviceAll_sameLaunch (s : State) : SameLaunch s (serviceAll s) := ⟨serviceAll_cfg s, serviceAll_nfe s⟩

theorem appendByte_sameLaunch {b : Byte} {s t : State} (h : appendByte b s = .next t) : SameLaunch s t := by
  rw [appendByte_frame h]
  exact ⟨rfl, rfl⟩

theorem evaluateFrame_sameLaunch {s t : State} (h : evaluateFrame s = .next t) : SameLaunch s t := by
  rw [evaluateFrame_frame h]
  exact ⟨rfl, rfl⟩

theorem postRequest_sameLaunch {p : Nat} {k : Kind} {s t : State} (h : postRequest p k s = .next t) :
    SameLaunch s t := by
  obtain ⟨-, -, rfl⟩ := postRequest_next h
  exact ⟨rfl, List.length_set⟩

theorem serveRequest_sameLaunch {p : Nat} {k : Kind} {s t : State} (h : serveRequest p k s = .next t) :
    SameLaunch s t := by
  obtain ⟨-, rfl⟩ := serveRequest_next h
  exact ⟨rfl, rfl⟩

theorem execDeliver_sameLaunch {b : Byte} {s t : State} (h : execDeliver b s = .next t) : SameLaunch s t := by
  unfold execDeliver at h
  split at h
  · split at h <;> cases h
    exact ⟨rfl, rfl⟩
  · cases h

theorem DispatcherMove.sameLaunch {s t : State} (h : DispatcherMove s t) : SameLaunch s t := by
  cases h with
  | service _ => exact (serviceAll_sameLaunch s).trans ⟨rfl, rfl⟩
  | pollByte _ _ => exact ⟨rfl, rfl⟩
  | pollIdle _ _ => exact (serviceAll_sameLaunch s).trans ⟨rfl, rfl⟩
  | sleep _ => exact ⟨rfl, rfl⟩
  | @read b rest u _ _ append =>
    have kept : SameLaunch { s with rxq := rest } u := appendByte_sameLaunch append
    exact ⟨kept.cfg, kept.ports⟩
  | endCapture _ _ => exact ⟨rfl, rfl⟩
  | evaluate _ eval => exact (evaluateFrame_sameLaunch eval).trans ⟨rfl, rfl⟩

theorem dispatcherSteps_sameLaunch {n : Nat} {s t : State} (h : dispatcherSteps n s = .next t) : SameLaunch s t := by
  induction n generalizing s with
  | zero =>
    cases h
    exact ⟨rfl, rfl⟩
  | succ n ih =>
    obtain ⟨m, first, rest⟩ := andThen_next.1 h
    exact (dispatcherStep_move first).sameLaunch.trans (ih rest)

theorem exec_sameLaunch {i : Instr} {s t : State} (h : exec i s = .next t) : SameLaunch s t := by
  cases i with
  | pm25Report v trailer => cases h; exact ⟨rfl, rfl⟩
  | dService => exact (execDService_move h).sameLaunch
  | dWaitPoll => exact (execDWaitPoll_move h).sameLaunch
  | dWaitSleep => exact (execDWaitSleep_move h).sameLaunch
  | dCapRead => exact (execDCapRead_move h).sameLaunch
  | dCapSettle => exact (execDCapSettle_move h).sameLaunch
  | dEval => exact (execDEval_move h).sameLaunch
  | idle => cases h; exact ⟨rfl, rfl⟩
  | append b => exact appendByte_sameLaunch h
  | evaluate =>
    obtain ⟨u, eval, ⟨⟩⟩ := andThen_next.1 h
    exact (evaluateFrame_sameLaunch eval).trans ⟨rfl, rfl⟩
  | get => cases h; exact ⟨rfl, rfl⟩
  | set v => cases h; exact ⟨rfl, rfl⟩
  | serviceAll => cases h; exact serviceAll_sameLaunch s
  | reqData p => exact serveRequest_sameLaunch h
  | reqStatus p => exact serveRequest_sameLaunch h
  | reqHelp p => exact serveRequest_sameLaunch h
  | reqPage p => exact serveRequest_sameLaunch h
  | reqValue p => exact serveRequest_sameLaunch h
  | cmdData line => exact postRequest_sameLaunch h
  | cmdStatus line => exact postRequest_sameLaunch h
  | cmdOther line => exact postRequest_sameLaunch h
  | deliver b => exact execDeliver_sameLaunch h
  | post p k => exact postRequest_sameLaunch h
  | step n => exact dispatcherSteps_sameLaunch h
  | reset => cases h; rw [resetBlock_eq]; exact ⟨rfl, rfl⟩

/-- Settles O46: every instruction keeps the launch (`exec_sameLaunch`), and so does taking a move. -/
theorem parametersAreNeverWritten : Obligations.ParametersAreNeverWritten := by
  intro s t h
  obtain ⟨i, run⟩ := step_next h
  have kept : SameLaunch (taken s) t := exec_sameLaunch run
  exact ⟨kept.cfg, kept.ports⟩

end Sys2Proof.Machine
end

section
/-! Settles the obligations about reset (O36, O37, O38) and the ports (O53). -/

namespace Sys2Proof.Machine

open Sys2Proof

/-- Settles O36: the reset values register by register, by whether the link is up (`resetBlock_eq`). -/
theorem resetTakesTheResetValues : Obligations.ResetTakesTheResetValues :=
  fun s => congrArg Host.Outcome.next (resetBlock_eq s)

/-- Settles O37: no cell is listed after reset, and an unlisted cell reads 0x00. -/
theorem stateAfterReset : Obligations.StateAfterReset :=
  ⟨fun a _ => readCell_nil a, rfl, rfl, rfl, rfl, rfl, rfl⟩

/-- Settles O38: the buffer is empty and no delay runs. -/
theorem resetSatisfiesTheInvariants : Obligations.ResetSatisfiesTheInvariants where
  canonical := rfl
  fill := Nat.zero_le 20
  aboveFill := fun a _ => readCell_nil a
  noDelay := fun _ => rfl
  sleep := fun _ => Nat.zero_le _
  settle := fun _ => Nat.zero_le _
  drained := fun _ => ⟨rfl, rfl⟩

/-- An emitted event adds its one cycle of pulses (spec/10_state.md R40). -/
theorem pulseTrace_emit (e : Event) (s : State) : pulseTrace (emit e s) = pulseTrace s ++ [e.pulses] := by
  rw [pulseTrace, emit_trace, List.map_append, List.map_singleton, pulseTrace]

/-- Settles O53: the levels show the codes of the registers, and each event adds its own pulses (`pulseTrace_emit`),
whose codes are those of the tables. -/
theorem portsShowStateAndEvents : Obligations.PortsShowStateAndEvents := by
  refine ⟨?levels, ?responses, ?outcomes, ?others⟩
  case levels =>
    intro s
    refine ⟨rfl, rfl, ?_, ?_⟩
    · change s.phase.code.toNat = _
      cases s.phase <;> rfl
    · change s.lastOutcome.code.toNat = _
      rcases s.lastOutcome with _ | _ | _ | _ <;> rfl
  case responses =>
    intro s p v
    refine ⟨fun kc mem => ?_, pulseTrace_emit _ s⟩
    have code : kc.1.code = kc.2 := by
      revert kc
      decide
    rw [pulseTrace_emit, ← code]
    rfl
  case outcomes =>
    intro s tc mem
    have code : tc.1.code = tc.2 := by
      revert tc
      decide
    rw [pulseTrace_emit, ← code]
    rfl
  case others =>
    intro s v
    exact ⟨pulseTrace_emit _ s, pulseTrace_emit _ s, pulseTrace_emit _ s⟩

end Sys2Proof.Machine
end

section
/-! Settles the obligations about the answers of a service pass (O6) and the assembled reading (O25). -/

namespace Sys2Proof.Machine

open Sys2Proof

/-! ### The queue of a port after a write to a queue -/

/-- A port with a request waiting is present. -/
theorem lt_length_of_queue_cons {s : State} {p : Nat} {k : Kind} {rest : List Kind} (h : s.queue p = k :: rest) :
    p < s.feq.length := by
  by_contra absent
  simp [State.queue, Nat.le_of_not_lt absent] at h

theorem queue_of_feq_set_self {s t : State} {p : Nat} {ks : List Kind} (ht : t.feq = s.feq.set p ks)
    (present : p < s.feq.length) : t.queue p = ks := by
  simp [State.queue, ht, present]

theorem queue_of_feq_set_other {s t : State} {p q : Nat} {ks : List Kind} (ht : t.feq = s.feq.set p ks) (ne : p ≠ q) :
    t.queue q = s.queue q := by
  rw [State.queue, ht, List.getElem?_set_ne ne, State.queue]

/-- Emptying a queue that is empty or absent changes nothing. -/
theorem feq_set_nil_of_queue_nil {s : State} {p : Nat} (h : s.queue p = []) : s.feq.set p [] = s.feq := by
  by_cases present : p < s.feq.length
  · have entry : s.feq[p] = [] := by simpa [State.queue, present] using h
    rw [← entry, List.set_getElem_self]
  · exact List.set_eq_of_length_le (Nat.le_of_not_lt present)

/-- Emptying queue `p` leaves every other queue, and leaves `p` with nothing, present or not. -/
theorem queue_of_feq_set_nil {s t : State} {p : Nat} (ht : t.feq = s.feq.set p []) (q : Nat) :
    t.queue q = if p = q then [] else s.queue q := by
  split
  · subst q
    by_cases present : p < s.feq.length
    · exact queue_of_feq_set_self ht present
    · simp [State.queue, ht, present]
  · exact queue_of_feq_set_other ht ‹_›

/-! ### The service of one port -/

/-- Serving all the requests of a port empties its queue and answers them oldest first, with the reading at that instant
(spec/41_dispatch.md R160). -/
theorem servePort_of_queue {s : State} {p : Nat} {ks : List Kind} (h : s.queue p = ks) :
    servePort p ks.length s =
      { s with feq := s.feq.set p [], trace := s.trace ++ portAnswers s.reading p ks } := by
  induction ks generalizing s with
  | nil => simp [servePort, portAnswers, feq_set_nil_of_queue_nil h]
  | cons k rest ih =>
    rw [List.length_cons, servePort_succ_of_cons h, serve_eq,
      ih (queue_of_feq_set_self rfl (lt_length_of_queue_cons h))]
    simp [portAnswers]

@[simp] theorem servePort_reading (p n : Nat) (s : State) : (servePort p n s).reading = s.reading := by
  rw [servePort_frame]

theorem queue_servePort_all (p : Nat) (s : State) (q : Nat) :
    (servePort p (s.queue p).length s).queue q = if p = q then [] else s.queue q :=
  queue_of_feq_set_nil (congrArg State.feq (servePort_of_queue rfl)) q

/-! ### What one port is told -/

/-- What a front end is told for a request of kind `k` while the reading is `v` (spec/43_boundary.md R208). -/
def answerTo (v : Reading) (k : Kind) : Kind × Option Reading := (k, if k = .help then none else some v)

/-- Of the answers given to port `p`, port `q` sees all when it is that port, and none otherwise. -/
theorem filterMap_toFrontEnd_portAnswers (v : Reading) (p q : Nat) (ks : List Kind) :
    (portAnswers v p ks).filterMap (Event.toFrontEnd q) = if p = q then ks.map (answerTo v) else [] := by
  rw [portAnswers, List.filterMap_map]
  split
  · subst q
    rw [← List.filterMap_eq_map]
    congr 1
    funext k
    exact if_pos rfl
  · rw [List.filterMap_eq_nil_iff]
    intro k _
    exact if_neg ‹_›

theorem answers_of_trace_append {s t : State} {es : List Event} (ht : t.trace = s.trace ++ es) (p : Nat) :
    answers t p = answers s p ++ es.filterMap (Event.toFrontEnd p) := by
  rw [answers, ht, List.filterMap_append, answers]

/-- The service of port `p` answers its requests to `p` and tells other ports nothing. -/
theorem answers_servePort_all (p : Nat) (s : State) (q : Nat) :
    answers (servePort p (s.queue p).length s) q =
      answers s q ++ if p = q then (s.queue p).map (answerTo s.reading) else [] := by
  rw [servePort_of_queue rfl, answers_of_trace_append rfl, filterMap_toFrontEnd_portAnswers]

/-- A pass over the ports `ps` gives each of them one answer per request waiting, in order, and other ports nothing. A
port listed twice is answered once: its queue is empty the second time. -/
theorem answers_servePorts (ps : List Nat) (s : State) (q : Nat) :
    answers (servePorts ps s) q = answers s q ++ if q ∈ ps then (s.queue q).map (answerTo s.reading) else [] := by
  induction ps generalizing s with
  | nil => simp [servePorts]
  | cons p ps ih =>
    rw [servePorts, ih, answers_servePort_all, queue_servePort_all, servePort_reading]
    by_cases same : p = q
    · subst q
      simp
    · simp [same, Ne.symm same]

/-- Settles O6: the pass lists every port that is present (`answers_servePorts`). -/
theorem eachPortIsAnsweredOnceInOrder : Obligations.EachPortIsAnsweredOnceInOrder := by
  intro s t h p present
  cases h
  have listed : p ∈ List.range s.nfe := List.mem_range.2 present
  have told := answers_servePorts (List.range s.nfe) s p
  rw [if_pos listed] at told
  exact told

/-! ### The assembled reading -/

/-- Shifting the high byte up and adding the low one puts the two side by side (spec/30_encoding.md R93). -/
theorem assembleReading_eq_append (high low : Byte) : assembleReading high low = high ++ low := by
  rw [assembleReading, BitVec.append_def, BitVec.shiftLeftZeroExtend_eq, BitVec.setWidth'_eq]

/-- The reading is MemRead(5, 2) (spec/20_memory.md R62). -/
theorem frameReading_eq_memBits (m : List Host.Cell) : frameReading m = memBits m 5 2 := by
  rw [frameReading, assembleReading_eq_append]
  change _ = (0#0 ++ readCell m 5) ++ readCell m 6
  rw [BitVec.zero_width_append]
  rfl

/-- Settles O25: as a number, MemRead(5, 2) is byte 5 above byte 6 (`memBits_succ_toNat`). -/
theorem readingIsBigEndian : Obligations.ReadingIsBigEndian := by
  intro m
  have asNumber : (memBits m 5 2).toNat = 256 * (readCell m 5).toNat + (readCell m 6).toNat := by
    rw [memBits_succ_toNat, memBits_succ_toNat]
    simp [memBits]
  exact ⟨(congrArg BitVec.toNat (frameReading_eq_memBits m)).trans asNumber, frameReading_eq_memBits m⟩

end Sys2Proof.Machine
end

section
/-! Settles the obligations about a run that does not stop (O41, O40): under the invariants every select has its step, and
every move of the dispatcher keeps the invariants. -/

namespace Sys2Proof.Machine

open Sys2Proof

/-! ### What a select says of the state -/

/-- The select of a phase at timer 0. -/
theorem dsel_awake_iff (s : State) (ph : Phase) : s.dsel = ph.code ++ 0#1 ↔ s.phase = ph ∧ s.timer = 0 := by
  rw [dsel_of rfl]
  by_cases timer : s.timer = 0
  · rw [if_pos timer, BitVec.append_left_inj]
    cases s.phase <;> cases ph <;> simp [Phase.code, timer]
  · rw [if_neg timer]
    cases s.phase <;> cases ph <;> simp [Phase.code, timer]

/-- The select of a phase at a positive timer. -/
theorem dsel_asleep_iff (s : State) (ph : Phase) : s.dsel = ph.code ++ 1#1 ↔ s.phase = ph ∧ s.timer ≠ 0 := by
  rw [dsel_of rfl]
  by_cases timer : s.timer = 0
  · rw [if_pos timer]
    cases s.phase <;> cases ph <;> simp [Phase.code, timer]
  · rw [if_neg timer, BitVec.append_left_inj]
    cases s.phase <;> cases ph <;> simp [Phase.code, timer]

/-! ### Each dispatcher step where the state selects it (spec/41_dispatch.md R152 to R157) -/

section Selected

variable {s : State}

theorem execDService_of_phase (phase : s.phase = .servicing) (timer : s.timer = 0) :
    execDService s = .next (counted 0 { serviceAll s with phase := .waiting }) :=
  whenSelected_of_eq ((dsel_awake_iff s .servicing).2 ⟨phase, timer⟩) _

theorem execDWaitPoll_of_cons (phase : s.phase = .waiting) (timer : s.timer = 0) {b : Byte} {rest : List Byte}
    (h : s.rxq = b :: rest) : execDWaitPoll s = .next (counted 0 { s with phase := .capturing }) :=
  (whenSelected_of_eq ((dsel_awake_iff s .waiting).2 ⟨phase, timer⟩) _).trans (if_pos (rxAvail_cons h))

theorem execDWaitPoll_of_nil (phase : s.phase = .waiting) (timer : s.timer = 0) (h : s.rxq = []) :
    execDWaitPoll s = .next (counted 0 { serviceAll s with timer := s.cfg.tYield }) :=
  (whenSelected_of_eq ((dsel_awake_iff s .waiting).2 ⟨phase, timer⟩) _).trans (if_neg (by simp [rxAvail_nil h]))

theorem execDWaitSleep_of_phase (phase : s.phase = .waiting) (timer : s.timer ≠ 0) :
    execDWaitSleep s = .next (sleepTick s) :=
  whenSelected_of_eq ((dsel_asleep_iff s .waiting).2 ⟨phase, timer⟩) _

theorem execDCapRead_of_cons (phase : s.phase = .capturing) (timer : s.timer = 0) {b : Byte} {rest : List Byte}
    (h : s.rxq = b :: rest) :
    execDCapRead s = andThen (appendByte b { s with rxq := rest }) fun u =>
      .next (counted 0 { u with timer := u.cfg.tSettle }) :=
  calc execDCapRead s
    _ = _ := whenSelected_of_eq ((dsel_awake_iff s .capturing).2 ⟨phase, timer⟩) _
    _ = _ := if_pos (rxAvail_cons h)
    _ = _ := withRxRead_cons h _

theorem execDCapRead_of_nil (phase : s.phase = .capturing) (timer : s.timer = 0) (h : s.rxq = []) :
    execDCapRead s = .next (counted 0 { s with phase := .evaluating }) :=
  (whenSelected_of_eq ((dsel_awake_iff s .capturing).2 ⟨phase, timer⟩) _).trans (if_neg (by simp [rxAvail_nil h]))

theorem execDCapSettle_of_phase (phase : s.phase = .capturing) (timer : s.timer ≠ 0) :
    execDCapSettle s = .next (sleepTick s) :=
  whenSelected_of_eq ((dsel_asleep_iff s .capturing).2 ⟨phase, timer⟩) _

theorem execDEval_of_phase (phase : s.phase = .evaluating) (timer : s.timer = 0) :
    execDEval s = andThen (evaluateFrame s) fun t => .next (counted 0 { t with phase := .servicing }) :=
  whenSelected_of_eq ((dsel_awake_iff s .evaluating).2 ⟨phase, timer⟩) _

end Selected

/-! ### The invariants of the framer -/

/-- The invariants of spec/10_state.md R33 that speak of the frame space and its fill count alone. -/
structure FrameInv (m : List Host.Cell) (n : FillCount) : Prop where
  canonical : Memory.wf m = true
  fill : n.toNat ≤ 20
  aboveFill : ∀ a, n.toNat ≤ a → readCell m a = 0

theorem State.Inv.frame {s : State} (h : s.Inv) : FrameInv s.buf s.length := ⟨h.canonical, h.fill, h.aboveFill⟩

theorem frameInv_empty : FrameInv [] 0 := ⟨rfl, Nat.zero_le _, fun a _ => readCell_nil a⟩

theorem fillCount_succ_toNat {n : FillCount} (lt : n.toNat < 20) : (n + 1).toNat = n.toNat + 1 := by
  rw [BitVec.toNat_add]
  simp
  omega

/-- Storing a byte at the fill count keeps the cells above it zero. -/
theorem FrameInv.append {m : List Host.Cell} {n : FillCount} (h : FrameInv m n) (lt : n.toNat < 20) (b : Byte) :
    FrameInv (writeCell m n.toNat b) (n + 1) where
  canonical := writeCell_wf h.canonical lt b
  fill := by
    rw [fillCount_succ_toNat lt]
    exact lt
  aboveFill := by
    intro a above
    rw [fillCount_succ_toNat lt] at above
    rw [readCell_writeCell_other h.canonical (by omega), h.aboveFill a (by omega)]

theorem appendByte_frameInv {b : Byte} {s t : State} (h : FrameInv s.buf s.length) (run : appendByte b s = .next t) :
    FrameInv t.buf t.length := by
  rcases appendByte_next run with ⟨lt, rfl⟩ | ⟨-, rfl⟩
  · exact h.append lt b
  · exact frameInv_empty

/-- Every EVALUATE leaves an empty buffer, whatever its outcome (spec/40_framer.md R132). -/
theorem evaluateFrame_drains {s t : State} (h : evaluateFrame s = .next t) : t.length = 0 ∧ t.buf = [] := by
  obtain ⟨-, ⟨-, rfl⟩ | ⟨-, rfl⟩⟩ := evaluateFrame_next h <;> exact ⟨rfl, rfl⟩

/-! ### The invariants phase by phase -/

theorem inv_of_servicing {s : State} (phase : s.phase = .servicing) (timer : s.timer = 0)
    (empty : s.length = 0 ∧ s.buf = []) : s.Inv where
  canonical := by rw [empty.2]; rfl
  fill := by rw [empty.1]; exact Nat.zero_le _
  aboveFill := fun a _ => by rw [empty.2, readCell_nil]
  noDelay := fun _ => timer
  sleep := by simp [phase]
  settle := by simp [phase]
  drained := fun _ => empty

theorem inv_of_waiting {s : State} (phase : s.phase = .waiting) (sleep : s.timer ≤ s.cfg.tYield)
    (empty : s.length = 0 ∧ s.buf = []) : s.Inv where
  canonical := by rw [empty.2]; rfl
  fill := by rw [empty.1]; exact Nat.zero_le _
  aboveFill := fun a _ => by rw [empty.2, readCell_nil]
  noDelay := by simp [phase]
  sleep := fun _ => sleep
  settle := by simp [phase]
  drained := fun _ => empty

theorem inv_of_capturing {s : State} (phase : s.phase = .capturing) (settle : s.timer ≤ s.cfg.tSettle)
    (frame : FrameInv s.buf s.length) : s.Inv where
  canonical := frame.canonical
  fill := frame.fill
  aboveFill := frame.aboveFill
  noDelay := by simp [phase]
  sleep := by simp [phase]
  settle := fun _ => settle
  drained := by simp [phase]

theorem inv_of_evaluating {s : State} (phase : s.phase = .evaluating) (timer : s.timer = 0)
    (frame : FrameInv s.buf s.length) : s.Inv where
  canonical := frame.canonical
  fill := frame.fill
  aboveFill := frame.aboveFill
  noDelay := fun _ => timer
  sleep := by simp [phase]
  settle := by simp [phase]
  drained := by simp [phase]

@[simp] theorem serviceAll_buf (s : State) : (serviceAll s).buf = s.buf := by rw [serviceAll, servePorts_frame]

@[simp] theorem serviceAll_length (s : State) : (serviceAll s).length = s.length := by
  rw [serviceAll, servePorts_frame]

@[simp] theorem serviceAll_phase (s : State) : (serviceAll s).phase = s.phase := by rw [serviceAll, servePorts_frame]

@[simp] theorem serviceAll_timer (s : State) : (serviceAll s).timer = s.timer := by rw [serviceAll, servePorts_frame]

/-- Every move of the dispatcher keeps the invariants. -/
theorem DispatcherMove.inv {s t : State} (h : DispatcherMove s t) (inv : s.Inv) : t.Inv := by
  cases h with
  | service sel =>
    obtain ⟨phase, timer⟩ := (dsel_awake_iff s .servicing).1 sel
    exact inv_of_waiting rfl (by simp [timer]) (by simpa using inv.drained (.inl phase))
  | pollByte sel _ =>
    obtain ⟨-, timer⟩ := (dsel_awake_iff s .waiting).1 sel
    exact inv_of_capturing rfl (by simp [timer]) inv.frame
  | pollIdle sel _ =>
    obtain ⟨phase, -⟩ := (dsel_awake_iff s .waiting).1 sel
    exact inv_of_waiting (by simpa using phase) (by simp) (by simpa using inv.drained (.inr phase))
  | sleep sel =>
    rcases sel with sel | sel
    · obtain ⟨phase, -⟩ := (dsel_asleep_iff s .waiting).1 sel
      exact inv_of_waiting phase ((Nat.sub_le _ _).trans (inv.sleep phase)) (inv.drained (.inr phase))
    · obtain ⟨phase, -⟩ := (dsel_asleep_iff s .capturing).1 sel
      exact inv_of_capturing phase ((Nat.sub_le _ _).trans (inv.settle phase)) inv.frame
  | @read b rest u sel _ append =>
    obtain ⟨phase, -⟩ := (dsel_awake_iff s .capturing).1 sel
    have kept : u.phase = s.phase := by rw [appendByte_frame append]
    have frame : FrameInv u.buf u.length := appendByte_frameInv (s := { s with rxq := rest }) inv.frame append
    exact inv_of_capturing (kept.trans phase) (Nat.le_refl _) frame
  | endCapture sel _ =>
    obtain ⟨-, timer⟩ := (dsel_awake_iff s .capturing).1 sel
    exact inv_of_evaluating rfl timer inv.frame
  | @evaluate u sel eval =>
    obtain ⟨-, timer⟩ := (dsel_awake_iff s .evaluating).1 sel
    have kept : u.timer = s.timer := by rw [evaluateFrame_frame eval]
    have empty : u.length = 0 ∧ u.buf = [] := evaluateFrame_drains eval
    exact inv_of_servicing rfl (kept.trans timer) empty

/-! ### Every select has its step -/

/-- Below and at capacity APPEND answers a next state. -/
theorem appendByte_answers {s : State} (legal : s.length.toNat ≤ 20) (b : Byte) : answersNext (appendByte b s) := by
  rcases Nat.lt_or_eq_of_le legal with lt | full
  · exact ⟨_, appendByte_of_lt lt b⟩
  · exact ⟨_, appendByte_of_full full b⟩

/-- Under the invariants the dispatcher's own step answers a next state. -/
theorem dispatcherStep_answers {s : State} (inv : s.Inv) : answersNext (dispatcherStep s) := by
  unfold dispatcherStep
  split
  case h_1 phase timer => exact ⟨_, execDService_of_phase phase timer⟩
  case h_2 phase timer => cases timer.symm.trans (inv.noDelay (.inl phase))
  case h_3 phase timer =>
    cases hq : s.rxq with
    | nil => exact ⟨_, execDWaitPoll_of_nil phase timer hq⟩
    | cons b rest => exact ⟨_, execDWaitPoll_of_cons phase timer hq⟩
  case h_4 phase timer => exact ⟨_, execDWaitSleep_of_phase phase (timer ▸ Nat.succ_ne_zero _)⟩
  case h_5 phase timer =>
    cases hq : s.rxq with
    | nil => exact ⟨_, execDCapRead_of_nil phase timer hq⟩
    | cons b rest =>
      obtain ⟨u, append⟩ := appendByte_answers (s := { s with rxq := rest }) inv.fill b
      rw [execDCapRead_of_cons phase timer hq, append]
      exact ⟨_, rfl⟩
  case h_6 phase timer => exact ⟨_, execDCapSettle_of_phase phase (timer ▸ Nat.succ_ne_zero _)⟩
  case h_7 phase timer =>
    rw [execDEval_of_phase phase timer, evaluateFrame_of_legal inv.fill]
    exact ⟨_, rfl⟩
  case h_8 phase timer => cases timer.symm.trans (inv.noDelay (.inr phase))

theorem dispatcherSteps_answers (n : Nat) {s : State} (inv : s.Inv) :
    ∃ t, dispatcherSteps n s = .next t ∧ t.Inv := by
  induction n generalizing s with
  | zero => exact ⟨s, rfl, inv⟩
  | succ n ih =>
    obtain ⟨u, first⟩ := dispatcherStep_answers inv
    rw [dispatcherSteps, first]
    exact ih ((dispatcherStep_move first).inv inv)

/-- STEP is the dispatcher's steps in sequence. -/
theorem exec_step_eq (n : Nat) (s : State) : exec (.step n) s = dispatcherSteps n s := rfl

/-- Settles O41: by induction on the count, each step answers a state that meets the invariants again. -/
theorem theRunHasNoEnd : Obligations.TheRunHasNoEnd :=
  fun _ n inv => dispatcherSteps_answers n inv

/-! ### The moves of a free supply -/

theorem inv_taken {s : State} (inv : s.Inv) : (taken s).Inv :=
  ⟨inv.canonical, inv.fill, inv.aboveFill, inv.noDelay, inv.sleep, inv.settle, inv.drained⟩

/-- An enabled offer comes from a turn of a free supply. -/
theorem offer_of_offered {s : State} {i : Instr} (h : s.offered = some i) : ∃ o, s.offer o = some i := by
  unfold State.offered at h
  split at h
  · cases h
  · cases h
  · obtain ⟨o, -, enabled⟩ := Option.bind_eq_some_iff.1 h
    exact ⟨o, enabled⟩

/-- A move that is offered where it is enabled is accepted. -/
theorem exec_offered_answers {s : State} {i : Instr} (h : s.offered = some i) : answersNext (exec i (taken s)) := by
  obtain ⟨o, enabled⟩ := offer_of_offered h
  rcases offer_some enabled with ⟨b, rfl, link, room⟩ | ⟨p, k, rfl, present, room⟩ | rfl
  · exact ⟨_, (if_pos link).trans (if_pos room)⟩
  · exact ⟨_, postRequest_of_room (s := taken s) present room⟩
  · exact ⟨_, rfl⟩

/-- With no pending move, what a free supply offers runs next. -/
theorem step_of_offered {s : State} {i : Instr} (pending : s.pending = []) (h : s.offered = some i) :
    step s = exec i (taken s) := by
  simp only [step, nextInstr, pending, h]

theorem step_answers {s : State} (inv : s.Inv) (pending : s.pending = []) : answersNext (step s) := by
  cases offered : s.offered with
  | none =>
    rw [step_of_dispatcherTurn ⟨pending, offered⟩]
    exact dispatcherStep_answers (inv_taken inv)
  | some i =>
    rw [step_of_offered pending offered]
    exact exec_offered_answers offered

/-- Settles O40: invariant I-c excludes the two selects that have no step (spec/10_state.md R33). -/
theorem theDispatcherIsNeverStuck : Obligations.TheDispatcherIsNeverStuck := by
  intro s inv
  refine ⟨step_answers inv, ?_, ?_⟩
  · intro sel
    obtain ⟨phase, asleep⟩ := (dsel_asleep_iff s .servicing).1 sel
    exact asleep (inv.noDelay (.inl phase))
  · intro sel
    obtain ⟨phase, asleep⟩ := (dsel_asleep_iff s .evaluating).1 sel
    exact asleep (inv.noDelay (.inr phase))

end Sys2Proof.Machine
end

section
/-! Settles the obligations about the code words (O54, O55, O56, O57, O58) and the text lines (O59). -/

namespace Sys2Proof

/-! ### Kind codes -/

@[simp] theorem Kind.ofCode_code (k : Kind) : Kind.ofCode k.code = some k := by cases k <;> rfl

/-- A kind has one code (spec/30_encoding.md R104). -/
theorem Kind.code_of_ofCode {c : BitVec 3} {k : Kind} (h : Kind.ofCode c = some k) : k.code = c := by
  unfold Kind.ofCode at h
  split at h <;> cases h <;> exact (BitVec.eq_of_toNat_eq ‹_›).symm

/-- The codes above those of the table are reserved (spec/30_encoding.md R104). -/
theorem Kind.ofCode_reserved {c : BitVec 3} (h : 5 ≤ c.toNat) : Kind.ofCode c = none := by
  cases named : Kind.ofCode c with
  | none => rfl
  | some k =>
    rw [← Kind.code_of_ofCode named] at h
    cases k <;> exact absurd h (by decide)

/-! ### Frames -/

/-- A frame as header, reading and trailer (spec/30_encoding.md R91). -/
theorem decodeFrame_append (h : BitVec 40) (v : Reading) (trailer : BitVec 104) :
    decodeFrame (h ++ v ++ trailer) =
      if h = 0x16110B0000#40 then .instr (.pm25Report v trailer) else .reject .headerMismatch := by
  have hdr : (h ++ v ++ trailer).extractLsb' 120 40 = h := by
    rw [BitVec.extractLsb'_append_eq_of_le (by decide), BitVec.extractLsb'_append_eq_left]
  have reading : (h ++ v ++ trailer).extractLsb' 104 16 = v := by
    rw [BitVec.extractLsb'_append_eq_of_le (by decide), BitVec.extractLsb'_append_eq_right]
  unfold decodeFrame
  rw [hdr, reading, BitVec.extractLsb'_append_eq_right]

/-- Every frame is its header, its reading and its trailer. -/
theorem frame_eq_append (f : FrameBits) :
    f.extractLsb' 120 40 ++ f.extractLsb' 104 16 ++ f.extractLsb' 0 104 = f := by
  have upper : f.extractLsb' 120 40 ++ f.extractLsb' 104 16 = f.extractLsb' 104 56 :=
    BitVec.extractLsb'_append_extractLsb'_eq_extractLsb' rfl
  rw [upper]
  exact BitVec.extractLsb'_append_extractLsb' (w := 56) (len := 104)

/-! ### STIM12 words: the statement code above its operand (spec/30_encoding.md R112) -/

theorem stimWord_eq_append (w : BitVec 12) : w.extractLsb' 8 4 ++ w.extractLsb' 0 8 = w :=
  BitVec.extractLsb'_append_extractLsb' (w := 4) (len := 8)

/-- A request word is five fixed bits, the port and the kind's code. -/
theorem requestWord_eq_append (w : BitVec 12) : w.extractLsb' 7 5 ++ w.extractLsb' 3 4 ++ w.extractLsb' 0 3 = w := by
  have upper : w.extractLsb' 7 5 ++ w.extractLsb' 3 4 = w.extractLsb' 3 9 :=
    BitVec.extractLsb'_append_extractLsb'_eq_extractLsb' rfl
  rw [upper]
  exact BitVec.extractLsb'_append_extractLsb' (w := 9) (len := 3)

/-- The fixed bits of a request: the statement code 2, then bit 7 clear. -/
theorem requestWord_fixedBits {w : BitVec 12} (code : w.extractLsb' 8 4 = 2#4) (bit7 : w.extractLsb' 7 1 ≠ 1) :
    w.extractLsb' 7 5 = 0b00100#5 := by
  have both : w.extractLsb' 8 4 ++ w.extractLsb' 7 1 = w.extractLsb' 7 5 :=
    BitVec.extractLsb'_append_extractLsb'_eq_extractLsb' rfl
  rw [← both, code, (BitVec.eq_zero_or_eq_one _).resolve_right bit7]
  rfl

theorem stimWord_code (c : BitVec 4) (operand : BitVec 8) : (c ++ operand).extractLsb' 8 4 = c :=
  BitVec.extractLsb'_append_eq_left

theorem stimWord_operand (c : BitVec 4) (operand : BitVec 8) : (c ++ operand).extractLsb' 0 8 = operand :=
  BitVec.extractLsb'_append_eq_right

theorem decodeStim_deliver (b : Byte) : decodeStim (1#4 ++ b) = .instr (.deliver b) := by
  rw [decodeStim, stimWord_code, stimWord_operand]
  rfl

theorem decodeStim_step (n : BitVec 8) :
    decodeStim (3#4 ++ n) = if n = 0 then .reject .zeroSteps else .instr (.step n.toNat) := by
  rw [decodeStim, stimWord_code, stimWord_operand]
  rfl

theorem decodeStim_reset (operand : BitVec 8) :
    decodeStim (4#4 ++ operand) = if operand = 0 then .instr .reset else .reject .resetOperand := by
  rw [decodeStim, stimWord_code, stimWord_operand]
  rfl

theorem decodeStim_request (p : BitVec 4) (k : BitVec 3) :
    decodeStim (0b00100#5 ++ p ++ k) =
      (Kind.ofCode k).elim (.reject .reservedKind) fun kind => .instr (.post p.toNat kind) := by
  have code : (0b00100#5 ++ p ++ k).extractLsb' 8 4 = 2#4 := by
    rw [BitVec.extractLsb'_append_eq_of_le (by decide), BitVec.extractLsb'_append_eq_of_le (by decide)]
    rfl
  have bit7 : (0b00100#5 ++ p ++ k).extractLsb' 7 1 = 0#1 := by
    rw [BitVec.extractLsb'_append_eq_of_le (by decide), BitVec.extractLsb'_append_eq_of_le (by decide)]
    rfl
  have port : (0b00100#5 ++ p ++ k).extractLsb' 3 4 = p := by
    rw [BitVec.extractLsb'_append_eq_of_le (by decide), BitVec.extractLsb'_append_eq_right]
  have kind : (0b00100#5 ++ p ++ k).extractLsb' 0 3 = k := BitVec.extractLsb'_append_eq_right
  unfold decodeStim
  rw [code, bit7, port, kind]
  cases Kind.ofCode k <;> rfl

theorem decodeStim_requestBit (operand : BitVec 7) :
    decodeStim (0b00101#5 ++ operand) = .reject .reservedRequestBit := by
  have code : (0b00101#5 ++ operand).extractLsb' 8 4 = 2#4 := by
    rw [BitVec.extractLsb'_append_eq_of_le (by decide)]
    rfl
  have bit7 : (0b00101#5 ++ operand).extractLsb' 7 1 = 1#1 := by
    rw [BitVec.extractLsb'_append_eq_of_le (by decide)]
    rfl
  unfold decodeStim
  rw [code, bit7]
  rfl

theorem decodeStim_reserved {w : BitVec 12} (h : w.extractLsb' 8 4 = 0 ∨ 5 ≤ (w.extractLsb' 8 4).toNat) :
    decodeStim w = .reject .reservedStatement := by
  have outside : (w.extractLsb' 8 4).toNat = 0 ∨ 5 ≤ (w.extractLsb' 8 4).toNat := h.imp_left fun zero => by rw [zero]; rfl
  unfold decodeStim
  split
  case h_5 => rfl
  all_goals omega

/-! ### Operations with their operands (spec/30_encoding.md R103) -/

theorem decodeOp_append (b : Byte) : decodeOp 1 (0#8 ++ b) = .instr (.append b) := by
  have high : (0#8 ++ b).extractLsb' 8 8 = 0 := BitVec.extractLsb'_append_eq_left
  have low : (0#8 ++ b).extractLsb' 0 8 = b := BitVec.extractLsb'_append_eq_right
  exact (if_pos high).trans (by rw [low])

theorem withoutOperand_eq_instr {operand : BitVec 16} {i j : Instr} (h : withoutOperand operand i = .instr j) :
    operand = 0 ∧ i = j := by
  unfold withoutOperand at h
  split at h <;> cases h
  exact ⟨‹_›, rfl⟩

/-! ### Text lines (spec/30_encoding.md R105, R106) -/

/-- The words of the two commands differ. -/
theorem isData_of_isStatus {line : Line} (h : isStatus line = true) : isData line = false := by
  rw [isData, eq_of_beq h]
  rfl

theorem decodeLine_of_isData {line : Line} (h : isData line = true) : decodeLine line = .instr (.cmdData line) :=
  if_pos h

theorem decodeLine_of_isStatus {line : Line} (h : isStatus line = true) :
    decodeLine line = .instr (.cmdStatus line) := by
  simp [decodeLine, isData_of_isStatus h, h]

theorem decodeLine_of_neither {line : Line} (notData : isData line = false) (notStatus : isStatus line = false) :
    decodeLine line = .instr (.cmdOther line) := by
  simp [decodeLine, notData, notStatus]

/-- The bits of `0xDF` and the one bit of `0x20` make up a byte. -/
theorem upper_or_case (c : Byte) : upper c ||| (c &&& 0x20) = c := by
  rw [upper, ← BitVec.and_or_distrib_left]
  exact BitVec.and_allOnes

/-- `upper` ignores the bit that tells a small letter from a capital. -/
theorem upper_or_small (c : Byte) : upper (c ||| 0x20) = upper c := by
  rw [upper, upper, BitVec.and_comm, BitVec.and_or_distrib_left, BitVec.and_comm]
  exact BitVec.or_zero

/-- A byte is a capital letter in some case exactly when it is the small letter or the capital one. -/
theorem upper_eq_iff {small capital : Byte} (small_eq : capital ||| 0x20 = small) (fixed : upper capital = capital)
    (c : Byte) : upper c = capital ↔ c = small ∨ c = capital := by
  subst small_eq
  constructor
  · rintro rfl
    have whole := upper_or_case c
    have bit : c &&& 0x20 = 0x20 ∨ c &&& 0x20 = 0 := by
      have := BitVec.and_twoPow c 5
      split at this
      · exact .inl this
      · exact .inr this
    rcases bit with bit | bit <;> rw [bit] at whole
    · exact .inl whole.symm
    · exact .inr (whole.symm.trans BitVec.or_zero)
  · rintro (rfl | rfl)
    · rw [upper_or_small, fixed]
    · exact fixed

theorem upper_eq_A_iff (c : Byte) : upper c = 0x41 ↔ c = 0x61 ∨ c = 0x41 := upper_eq_iff rfl rfl c
theorem upper_eq_D_iff (c : Byte) : upper c = 0x44 ↔ c = 0x64 ∨ c = 0x44 := upper_eq_iff rfl rfl c
theorem upper_eq_S_iff (c : Byte) : upper c = 0x53 ↔ c = 0x73 ∨ c = 0x53 := upper_eq_iff rfl rfl c
theorem upper_eq_T_iff (c : Byte) : upper c = 0x54 ↔ c = 0x74 ∨ c = 0x54 := upper_eq_iff rfl rfl c
theorem upper_eq_U_iff (c : Byte) : upper c = 0x55 ↔ c = 0x75 ∨ c = 0x55 := upper_eq_iff rfl rfl c

theorem isData_iff (line : Line) : isData line = true ↔ ∃ a b c d, line = [a, b, c, d] ∧
    (a = 0x64 ∨ a = 0x44) ∧ (b = 0x61 ∨ b = 0x41) ∧ (c = 0x74 ∨ c = 0x54) ∧ (d = 0x61 ∨ d = 0x41) := by
  simp only [isData, beq_iff_eq, dataWord, List.map_eq_cons_iff, List.map_eq_nil_iff, upper_eq_A_iff, upper_eq_D_iff,
    upper_eq_T_iff]
  constructor
  · rintro ⟨a, _, rfl, ha, b, _, rfl, hb, c, _, rfl, hc, d, _, rfl, hd, rfl⟩
    exact ⟨a, b, c, d, rfl, ha, hb, hc, hd⟩
  · rintro ⟨a, b, c, d, rfl, ha, hb, hc, hd⟩
    exact ⟨a, _, rfl, ha, b, _, rfl, hb, c, _, rfl, hc, d, _, rfl, hd, rfl⟩

theorem isStatus_iff (line : Line) : isStatus line = true ↔ ∃ a b c d e f, line = [a, b, c, d, e, f] ∧
    (a = 0x73 ∨ a = 0x53) ∧ (b = 0x74 ∨ b = 0x54) ∧ (c = 0x61 ∨ c = 0x41) ∧ (d = 0x74 ∨ d = 0x54) ∧
    (e = 0x75 ∨ e = 0x55) ∧ (f = 0x73 ∨ f = 0x53) := by
  simp only [isStatus, beq_iff_eq, statusWord, List.map_eq_cons_iff, List.map_eq_nil_iff, upper_eq_A_iff,
    upper_eq_S_iff, upper_eq_T_iff, upper_eq_U_iff]
  constructor
  · rintro ⟨a, _, rfl, ha, b, _, rfl, hb, c, _, rfl, hc, d, _, rfl, hd, e, _, rfl, he, f, _, rfl, hf, rfl⟩
    exact ⟨a, b, c, d, e, f, rfl, ha, hb, hc, hd, he, hf⟩
  · rintro ⟨a, b, c, d, e, f, rfl, ha, hb, hc, hd, he, hf⟩
    exact ⟨a, _, rfl, ha, b, _, rfl, hb, c, _, rfl, hc, d, _, rfl, hd, e, _, rfl, he, f, _, rfl, hf, rfl⟩

theorem decodeLine_cmdData_iff (line : Line) : decodeLine line = .instr (.cmdData line) ↔ isData line = true := by
  constructor
  · intro h
    by_contra notData
    rw [decodeLine, if_neg notData] at h
    split at h <;> cases h
  · exact decodeLine_of_isData

theorem decodeLine_cmdStatus_iff (line : Line) :
    decodeLine line = .instr (.cmdStatus line) ↔ isStatus line = true := by
  constructor
  · intro h
    unfold decodeLine at h
    split at h
    · cases h
    · split at h
      · assumption
      · cases h
  · exact decodeLine_of_isStatus

/-- Settles O59: each word letter by letter (`isData_iff`, `isStatus_iff`), and the default when neither fits. -/
theorem textLinesInAnyLetterCase : Obligations.TextLinesInAnyLetterCase := by
  intro line
  refine ⟨(decodeLine_cmdData_iff line).trans (isData_iff line),
    (decodeLine_cmdStatus_iff line).trans (isStatus_iff line), ?_⟩
  cases data : isData line with
  | true => exact .inl (decodeLine_of_isData data)
  | false =>
    cases status : isStatus line with
    | true => exact .inr (.inl (decodeLine_of_isStatus status))
    | false => exact .inr (.inr (decodeLine_of_neither data status))

/-! ### Decoding what was encoded -/

/-- Settles O54: each row of the table, by the reading of its own code space. -/
theorem decodeOfEncode : Obligations.DecodeOfEncode := by
  intro i wf
  cases i with
  | pm25Report v trailer => exact decodeFrame_append _ v trailer
  | append b => exact decodeOp_append b
  | cmdData line => exact decodeLine_of_isData wf
  | cmdStatus line => exact decodeLine_of_isStatus wf
  | cmdOther line =>
    obtain ⟨notData, notStatus⟩ : isData line = false ∧ isStatus line = false := by simpa [Instr.wellFormed] using wf
    exact decodeLine_of_neither notData notStatus
  | deliver b => exact decodeStim_deliver b
  | post p k =>
    have port : (BitVec.ofNat 4 p).toNat = p :=
      (BitVec.toNat_ofNat p 4).trans (Nat.mod_eq_of_lt (of_decide_eq_true wf))
    exact (decodeStim_request _ _).trans (by rw [Kind.ofCode_code, Option.elim_some, port])
  | step n =>
    obtain ⟨pos, lt⟩ : 0 < n ∧ n < 256 := by simpa [Instr.wellFormed] using wf
    have count : (BitVec.ofNat 8 n).toNat = n := (BitVec.toNat_ofNat n 8).trans (Nat.mod_eq_of_lt lt)
    have nonzero : BitVec.ofNat 8 n ≠ 0 := fun zero => by
      rw [zero] at count
      exact pos.ne count
    exact (decodeStim_step _).trans (by rw [if_neg nonzero, count])
  | _ => rfl

/-! ### Encoding what was decoded -/

/-- The instruction stands for a word of the encodings, and for this one. -/
def Denotes (i : Instr) (w : CodeWord) : Prop := i.wellFormed = true ∧ encode i = w

theorem decodeFrame_denotes {f : FrameBits} {i : Instr} (h : decodeFrame f = .instr i) : Denotes i (.frame20 f) := by
  unfold decodeFrame at h
  split at h <;> cases h
  rename_i hdr
  exact ⟨rfl, congrArg CodeWord.frame20 (by rw [← hdr, frame_eq_append])⟩

theorem decodeDsel_denotes {c : BitVec 3} {i : Instr} (h : decodeDsel c = .instr i) : Denotes i (.dsel c) := by
  unfold decodeDsel at h
  split at h <;> cases h <;> exact ⟨rfl, congrArg CodeWord.dsel (BitVec.eq_of_toNat_eq ‹c.toNat = _›.symm)⟩

theorem decodeOp_denotes {c : BitVec 3} {operand : BitVec 16} {i : Instr} (h : decodeOp c operand = .instr i) :
    Denotes i (.op3 c operand) := by
  unfold decodeOp at h
  split at h
  case h_2 code =>
    obtain rfl : c = 1 := BitVec.eq_of_toNat_eq code
    split at h <;> cases h
    rename_i high
    have whole : operand.extractLsb' 8 8 ++ operand.extractLsb' 0 8 = operand :=
      BitVec.extractLsb'_append_extractLsb' (w := 8) (len := 8)
    rw [high] at whole
    exact ⟨rfl, congrArg (CodeWord.op3 1) whole⟩
  case h_5 code =>
    obtain rfl : c = 4 := BitVec.eq_of_toNat_eq code
    cases h
    exact ⟨rfl, rfl⟩
  case h_7 => cases h
  all_goals
    rename_i code
    obtain ⟨rfl, rfl⟩ := withoutOperand_eq_instr h
    exact ⟨rfl, congrArg (CodeWord.op3 · 0) (BitVec.eq_of_toNat_eq code.symm)⟩

theorem decodeKind_denotes {c : BitVec 3} {p : Nat} {i : Instr} (h : decodeKind c p = .instr i) :
    Denotes i (.kind3 c p) := by
  unfold decodeKind at h
  split at h <;> cases h
  rename_i k named
  rw [← Kind.code_of_ofCode named]
  cases k <;> exact ⟨rfl, rfl⟩

theorem decodeLine_denotes {line : Line} {i : Instr} (h : decodeLine line = .instr i) : Denotes i (.text line) := by
  unfold decodeLine at h
  split at h
  · cases h
    exact ⟨‹_›, rfl⟩
  · split at h <;> cases h
    · exact ⟨‹_›, rfl⟩
    · exact ⟨by simp [Instr.wellFormed, *], rfl⟩

theorem decodeStim_denotes {w : BitVec 12} {i : Instr} (h : decodeStim w = .instr i) : Denotes i (.stim12 w) := by
  have whole := stimWord_eq_append w
  unfold decodeStim at h
  split at h
  case h_1 code =>
    cases h
    rw [show w.extractLsb' 8 4 = 1#4 from BitVec.eq_of_toNat_eq code] at whole
    exact ⟨rfl, congrArg CodeWord.stim12 whole⟩
  case h_2 code =>
    split at h
    · cases h
    · split at h <;> cases h
      rename_i bit7 _ k named
      have request := requestWord_eq_append w
      rw [requestWord_fixedBits (BitVec.eq_of_toNat_eq code) bit7] at request
      refine ⟨decide_eq_true (w.extractLsb' 3 4).isLt, congrArg CodeWord.stim12 ?_⟩
      rw [BitVec.ofNat_toNat, BitVec.setWidth_eq, Kind.code_of_ofCode named, request]
  case h_3 code =>
    split at h <;> cases h
    rename_i nonzero
    rw [show w.extractLsb' 8 4 = 3#4 from BitVec.eq_of_toNat_eq code] at whole
    have pos : 0 < (w.extractLsb' 0 8).toNat := by
      rw [Nat.pos_iff_ne_zero]
      exact fun zero => nonzero (BitVec.eq_of_toNat_eq zero)
    refine ⟨?_, congrArg CodeWord.stim12 ?_⟩
    · rw [Instr.wellFormed, decide_eq_true pos, decide_eq_true (w.extractLsb' 0 8).isLt]
      rfl
    · rw [BitVec.ofNat_toNat, BitVec.setWidth_eq, whole]
  case h_4 code =>
    split at h <;> cases h
    rename_i zero
    rw [show w.extractLsb' 8 4 = 4#4 from BitVec.eq_of_toNat_eq code, zero] at whole
    exact ⟨rfl, congrArg CodeWord.stim12 whole⟩
  case h_5 => cases h

/-- Settles O55: by the code space of the word. -/
theorem encodeOfDecode : Obligations.EncodeOfDecode := by
  intro w i h
  cases w with
  | frame20 f => exact decodeFrame_denotes h
  | dsel c => exact decodeDsel_denotes h
  | op3 c operand => exact decodeOp_denotes h
  | kind3 c p => exact decodeKind_denotes h
  | text line => exact decodeLine_denotes h
  | stim12 w => exact decodeStim_denotes h

/-! ### Match and mask, reserved codes and samples -/

theorem decodeFrame_isInstr_iff (f : FrameBits) :
    (∃ i, decodeFrame f = .instr i) ↔ f.extractLsb' 120 40 = 0x16110B0000#40 := by
  unfold decodeFrame
  split <;> simp_all

/-- The mask keeps the five header bytes and clears the rest (spec/30_encoding.md R92). -/
theorem frame_and_mask (f : FrameBits) :
    f &&& 0xFFFFFFFFFF000000000000000000000000000000#160 = f.extractLsb' 120 40 ++ 0#120 := by
  have whole : f.extractLsb' 120 40 ++ f.extractLsb' 0 120 = f :=
    BitVec.extractLsb'_append_extractLsb' (w := 40) (len := 120)
  have mask : 0xFFFFFFFFFF000000000000000000000000000000#160 = BitVec.allOnes 40 ++ 0#120 := by decide
  calc f &&& 0xFFFFFFFFFF000000000000000000000000000000#160
    _ = (f.extractLsb' 120 40 ++ f.extractLsb' 0 120) &&& (BitVec.allOnes 40 ++ 0#120) := by rw [whole, mask]
    _ = f.extractLsb' 120 40 ++ 0#120 := by rw [BitVec.and_append, BitVec.and_allOnes, BitVec.and_zero]

/-- Settles O56: the mask leaves the header (`frame_and_mask`), which is all that decoding tests. -/
theorem reportMatchAndMask : Obligations.ReportMatchAndMask := by
  intro f
  have pattern : 0x16110B0000000000000000000000000000000000#160 = 0x16110B0000#40 ++ 0#120 := by decide
  rw [frame_and_mask, pattern, BitVec.append_left_inj]
  exact decodeFrame_isInstr_iff f

/-- Settles O57: code space by code space, the codes that the tables leave out. -/
theorem reservedCodesAreRejected : Obligations.ReservedCodesAreRejected := by
  refine ⟨⟨rfl, rfl⟩, fun o => ⟨rfl, rfl⟩, fun p => ⟨rfl, rfl, rfl⟩, fun w reserved => decodeStim_reserved reserved,
    by decide, decodeStim_requestBit, ?kind, ?operand⟩
  case kind =>
    intro p k reserved
    exact (decodeStim_request p k).trans (by rw [Kind.ofCode_reserved reserved, Option.elim_none])
  case operand =>
    intro b nonzero
    exact (decodeStim_reset b).trans (if_neg nonzero)

/-- Settles O58: each word's bits, read from its table. -/
theorem sampleWordsDecode : Obligations.SampleWordsDecode := by
  unfold Obligations.SampleWordsDecode
  decide

end Sys2Proof
end

section
/-! Settles the obligations about EVALUATE (O19 to O24): its outcome by the header, and the frame that the buffer holds. -/

namespace Sys2Proof.Machine

open Sys2Proof

/-! ### What the buffer's bytes say -/

theorem append_eq_append_iff {m n : Nat} {x y : BitVec m} {a b : BitVec n} : x ++ a = y ++ b ↔ x = y ∧ a = b := by
  constructor
  · intro h
    have upper := congrArg (BitVec.extractLsb' n m) h
    have lower := congrArg (BitVec.extractLsb' 0 n) h
    rw [BitVec.extractLsb'_append_eq_left, BitVec.extractLsb'_append_eq_left] at upper
    rw [BitVec.extractLsb'_append_eq_right, BitVec.extractLsb'_append_eq_right] at lower
    exact ⟨upper, lower⟩
  · rintro ⟨rfl, rfl⟩
    rfl

/-- The header matches exactly when each of its five bytes does (spec/30_encoding.md R92). -/
theorem headerBits_eq_iff (m : List Host.Cell) : headerBits m = 0x16110B0000#40 ↔ readCell m 0 = 0x16 ∧
    readCell m 1 = 0x11 ∧ readCell m 2 = 0x0B ∧ readCell m 3 = 0x00 ∧ readCell m 4 = 0x00 := by
  have pattern : 0x16110B0000#40 = (0#0 ++ 0x16#8 ++ 0x11#8 ++ 0x0B#8 ++ 0x00#8 ++ 0x00#8) := by decide
  have bytes : headerBits m = 0#0 ++ readCell m 0 ++ readCell m 1 ++ readCell m 2 ++ readCell m 3 ++ readCell m 4 := rfl
  rw [pattern, bytes]
  change @Eq (BitVec (0 + 8 + 8 + 8 + 8 + 8)) _ _ ↔ _
  simp only [append_eq_append_iff, true_and, and_assoc]
  rfl

/-- MemRead of a range is its first part followed by the rest. -/
theorem memBits_add (m : List Host.Cell) (a n k : Nat) :
    memBits m a (n + k) = (memBits m a n ++ memBits m (a + n) k).cast (Nat.mul_add 8 n k).symm := by
  induction k with
  | zero => simp [memBits]
  | succ k ih =>
    change memBits m a (n + k) ++ readCell m (a + (n + k)) =
      (memBits m a n ++ (memBits m (a + n) k ++ readCell m (a + n + k))).cast _
    rw [ih, BitVec.append_assoc', show readCell m (a + (n + k)) = readCell m (a + n + k) by rw [Nat.add_assoc],
      BitVec.cast_cast]
    exact (BitVec.cast_append_left _ _ _).symm

/-- The frame in the buffer is its header, its reading and its trailer (spec/30_encoding.md R91). -/
theorem frameBits_eq_append (m : List Host.Cell) :
    frameBits m = headerBits m ++ frameReading m ++ memBits m 7 13 := by
  rw [frameReading_eq_memBits]
  have upper : memBits m 0 7 = headerBits m ++ memBits m 5 2 := memBits_add m 0 5 2
  have whole : frameBits m = memBits m 0 7 ++ memBits m 7 13 := memBits_add m 0 7 13
  rw [whole, upper]

/-- A buffer that holds a frame reads as that frame. -/
theorem frameBits_holding (s : State) (f : FrameBits) : frameBits (s.holding f).buf = f := by
  rw [holding_buf]
  exact memBits_writeBits (m := []) rfl 0 20 (Nat.le_refl _) f

/-- The reading as a number (spec/30_encoding.md R93). -/
theorem frameReading_eq_ofNat (m : List Host.Cell) :
    frameReading m = BitVec.ofNat 16 (256 * (readCell m 5).toNat + (readCell m 6).toNat) := by
  rw [← (readingIsBigEndian m).1, BitVec.ofNat_toNat, BitVec.setWidth_eq]

/-! ### EVALUATE by outcome (spec/40_framer.md R132) -/

theorem acceptReading_eq (v : Reading) (s : State) : acceptReading v s = { s with
    buf := [], length := 0, reading := v, lastOutcome := .tag .valid, trace := s.trace ++ [.echo v, .eval .valid] } := by
  simp [acceptReading, finishEvaluation, recordOutcome, emit, clearFrame, setReading]

theorem finishEvaluation_eq (t : EvalTag) (s : State) : finishEvaluation t s = { s with
    buf := [], length := 0, lastOutcome := .tag t, trace := s.trace ++ [.eval t] } := rfl

section Outcomes

variable {s : State}

theorem execEvaluate_of_report (full : s.length.toNat = 20) (hdr : headerBits s.buf = 0x16110B0000#40) :
    execEvaluate s = .next { acceptReading (frameReading s.buf) s with opResult := some (.outcome .valid) } := by
  have tag := evalTag_valid full hdr
  rw [execEvaluate, evaluateFrame_of_legal full.le, if_pos tag, tag]
  rfl

theorem execEvaluate_of_otherHeader (full : s.length.toNat = 20) (hdr : headerBits s.buf ≠ 0x16110B0000#40) :
    execEvaluate s =
      .next { finishEvaluation .headerMismatch s with opResult := some (.outcome .headerMismatch) } := by
  have tag := evalTag_headerMismatch full hdr
  rw [execEvaluate, evaluateFrame_of_legal full.le, tag]
  rfl

theorem execEvaluate_of_short (short : s.length.toNat < 20) :
    execEvaluate s = .next { finishEvaluation .incomplete s with opResult := some (.outcome .incomplete) } := by
  have tag := evalTag_incomplete short.ne
  rw [execEvaluate, evaluateFrame_of_legal short.le, tag]
  rfl

theorem execEvaluate_of_illegal (illegal : 20 < s.length.toNat) : execEvaluate s = .fault .stuckLength := by
  rw [execEvaluate, evaluateFrame_of_illegal illegal]
  rfl

end Outcomes

/-- Settles O19: the header's five bytes make the outcome VALID (`headerBits_eq_iff`). -/
theorem evaluateAcceptsAReport : Obligations.EvaluateAcceptsAReport := by
  intro s full b0 b1 b2 b3 b4
  have hdr := (headerBits_eq_iff s.buf).2 ⟨b0, b1, b2, b3, b4⟩
  refine (execEvaluate_of_report full hdr).trans ?_
  rw [acceptReading_eq, frameReading_eq_ofNat]

/-- Settles O20: a header byte that differs makes the outcome HEADER_MISMATCH. -/
theorem evaluateDiscardsAnyOtherHeader : Obligations.EvaluateDiscardsAnyOtherHeader :=
  fun s full other => execEvaluate_of_otherHeader full (mt (headerBits_eq_iff s.buf).1 other)

/-- Settles O21: the length is tested before the header (spec/30_encoding.md R94). -/
theorem evaluateDiscardsAShortCapture : Obligations.EvaluateDiscardsAShortCapture :=
  fun _ short => execEvaluate_of_short short

/-- Settles O22: PM25_REPORT is the VALID branch (`acceptReading_eq`). -/
theorem reportIsAccepted : Obligations.ReportIsAccepted :=
  fun s v _ => congrArg Host.Outcome.next (acceptReading_eq v s)

/-! ### EVALUATE and the frame's decoding -/

/-- The frame in the buffer decodes by its header. -/
theorem decode_frameBits (m : List Host.Cell) : decode (.frame20 (frameBits m)) =
    if headerBits m = 0x16110B0000#40 then .instr (.pm25Report (frameReading m) (memBits m 7 13))
    else .reject .headerMismatch := by
  rw [frameBits_eq_append]
  exact decodeFrame_append _ _ _

/-- Accepting a reading forgets the frame that was held. -/
theorem acceptReading_holding (v : Reading) (s : State) (f : FrameBits) :
    acceptReading v (s.holding f) = acceptReading v s := by simp [acceptReading_eq, State.holding]

/-- Settles O23: EVALUATE and the decoder test the same header and read the same two bytes (`decode_frameBits`). -/
theorem evaluateAgreesWithTheFrameDecoder : Obligations.EvaluateAgreesWithTheFrameDecoder := by
  intro s f
  have decoded := decode_frameBits (s.holding f).buf
  rw [frameBits_holding] at decoded
  have full : (s.holding f).length.toNat = 20 := by
    rw [holding_length]
    rfl
  constructor
  · intro i h
    rw [decoded] at h
    split at h <;> cases h
    rename_i hdr
    refine (execEvaluate_of_report full hdr).trans ?_
    rw [acceptReading_holding]
    rfl
  · intro e h
    rw [decoded] at h
    split at h <;> cases h
    rename_i hdr
    refine (execEvaluate_of_otherHeader full hdr).trans ?_
    rw [finishEvaluation_eq]
    simp [State.holding]

/-- Accepting a reading forgets the cells that were there, and so does every other end of EVALUATE. -/
theorem execEvaluate_congr_buf {s : State} {cells : List Host.Cell} (hdr : headerBits cells = headerBits s.buf)
    (reading : frameReading cells = frameReading s.buf) : execEvaluate { s with buf := cells } = execEvaluate s := by
  rcases Nat.lt_trichotomy s.length.toNat 20 with short | full | illegal
  · rw [execEvaluate_of_short (s := { s with buf := cells }) short, execEvaluate_of_short short]
    rfl
  · by_cases report : headerBits s.buf = 0x16110B0000#40
    · rw [execEvaluate_of_report (s := { s with buf := cells }) full (hdr.trans report),
        execEvaluate_of_report full report, ← reading]
      rfl
    · have other : headerBits cells ≠ 0x16110B0000#40 := hdr ▸ report
      rw [execEvaluate_of_otherHeader (s := { s with buf := cells }) full other,
        execEvaluate_of_otherHeader full report]
      rfl
  · rw [execEvaluate_of_illegal (s := { s with buf := cells }) illegal, execEvaluate_of_illegal illegal]

/-- Settles O24: EVALUATE reads the header and the reading alone, which are the cells 0 to 6. -/
theorem trailerIsIgnored : Obligations.TrailerIsIgnored := by
  intro s cells same
  have hdr : headerBits cells = headerBits s.buf := memBits_congr 0 5 fun c _ lt => same c (by omega)
  have reading : frameReading cells = frameReading s.buf := by
    rw [frameReading, frameReading, same pmOff (by decide), same (pmOff + 1) (by decide)]
  exact execEvaluate_congr_buf hdr reading

end Sys2Proof.Machine
end

section
/-! Settles the obligations about the machine's step (O1, O2, O3) and STEP (O35). -/

namespace Sys2Proof.Machine

open Sys2Proof

theorem step_of_nextInstr {s : State} {i : Instr} (h : nextInstr s = .instr i) : step s = exec i (taken s) := by
  rw [step, h]

theorem step_of_rejected {s : State} {e : DecodeError} (h : nextInstr s = .reject e) : step s = rejected s := by
  rw [step, h]

/-! ### What runs next, by whose turn it is -/

section Turns

variable {s : State} {rest : List Move}

theorem nextInstr_of_turn (turn : s.dispatcherTurn) : nextInstr s = decode (.dsel s.dsel) := by
  obtain ⟨pending, offered⟩ := turn
  simp only [nextInstr, pending, offered]

theorem nextInstr_of_word {w : BitVec 12} (h : s.pending = .word w :: rest) : nextInstr s = decode (.stim12 w) := by
  simp only [nextInstr, h]

theorem nextInstr_of_line {l : Line} (h : s.pending = .line l :: rest) : nextInstr s = decode (.text l) := by
  simp only [nextInstr, h]

theorem nextInstr_of_request {p : Nat} {k : Kind} (h : s.pending = .request p k :: rest) :
    nextInstr s = .instr (.post p k) := by
  simp only [nextInstr, h]

theorem nextInstr_of_route {r : Route} (h : s.pending = .route r :: rest) :
    nextInstr s = .instr (.post s.cfg.httpPort (routeKind r)) := by
  simp only [nextInstr, h]

/-- What a free supply offers at its turn. -/
theorem offered_of_free {n : Nat} (h : s.supply = .free n) :
    s.offered = (Config.surroundings n).bind s.offer := by
  simp only [State.offered, h]

/-- A due move's instruction runs on the state with that move taken. -/
theorem step_of_pending {m : Move} {i : Instr} (h : s.pending = m :: rest) (next : nextInstr s = .instr i) :
    step s = exec i { s with script := rest } := by
  rw [step_of_nextInstr next, taken_of_cons h]

/-- On the dispatcher's turn its select's instruction runs, and a free supply has had its turn. -/
theorem step_of_select {i : Instr} (turn : s.dispatcherTurn) (select : decode (.dsel s.dsel) = .instr i) :
    step s = exec i { s with supply := s.supply.next } := by
  rw [step_of_nextInstr ((nextInstr_of_turn turn).trans select), taken_of_nil turn.1]

/-- At its turn a free supply's enabled move runs, else the dispatcher's select. -/
theorem step_of_free {n : Nat} {i : Instr} (pending : s.pending = []) (free : s.supply = .free n)
    (select : decode (.dsel s.dsel) = .instr i) :
    step s = exec (s.offered.getD i) { s with supply := .free (n + 1) } := by
  have next : s.supply.next = .free (n + 1) := by rw [free]; rfl
  cases offered : s.offered with
  | none =>
    rw [step_of_select ⟨pending, offered⟩ select, next]
    rfl
  | some j =>
    rw [step_of_offered pending offered, taken_of_nil pending, next]
    rfl

end Turns

/-- Settles O1: one clause for each kind of turn. -/
theorem stepRunsTheDecodedInstruction : Obligations.StepRunsTheDecodedInstruction := by
  refine ⟨?select, ?word, ?line, ?request, ?route, ?free⟩
  case select =>
    intro s i turn select
    exact step_of_select turn select
  case word =>
    intro s w rest i due decoded
    exact step_of_pending due ((nextInstr_of_word due).trans decoded)
  case line =>
    intro s l rest i due decoded
    exact step_of_pending due ((nextInstr_of_line due).trans decoded)
  case request =>
    intro s p k rest due
    exact step_of_pending due (nextInstr_of_request due)
  case route =>
    intro s r rest due
    cases r <;> exact step_of_pending due (nextInstr_of_route due)
  case free =>
    intro s n i pending free select
    rw [← offered_of_free free]
    exact step_of_free pending free select

/-- Settles O2: what does not decode stops the run, as a stuck select or as a reserved word. -/
theorem reservedWordsStopTheRun : Obligations.ReservedWordsStopTheRun := by
  constructor
  · intro s turn phase asleep
    have noStep : decode (.dsel s.dsel) = .reject .noDispatcherStep := by
      rcases phase with phase | phase <;> rw [(dsel_asleep_iff s _).2 ⟨phase, asleep⟩] <;> rfl
    rw [step_of_rejected ((nextInstr_of_turn turn).trans noStep), rejected, turn.1]
  · intro s w rest e due reserved
    rw [step_of_rejected ((nextInstr_of_word due).trans reserved), rejected, due]

/-! ### The dispatcher's own step, phase by phase -/

/-- On the dispatcher's turn the step of a phase at timer 0 is the one its select names. -/
theorem step_of_awake {s : State} {ph : Phase} {i : Instr} (turn : s.dispatcherTurn) (phase : s.phase = ph)
    (awake : s.timer = 0) (select : decode (.dsel (ph.code ++ 0#1)) = .instr i) : step s = exec i (taken s) := by
  rw [← (dsel_awake_iff s ph).2 ⟨phase, awake⟩] at select
  exact step_of_nextInstr ((nextInstr_of_turn turn).trans select)

/-- On the dispatcher's turn the step of a phase at a positive timer is the one its select names. -/
theorem step_of_asleep {s : State} {ph : Phase} {i : Instr} (turn : s.dispatcherTurn) (phase : s.phase = ph)
    (asleep : 0 < s.timer) (select : decode (.dsel (ph.code ++ 1#1)) = .instr i) : step s = exec i (taken s) := by
  rw [← (dsel_asleep_iff s ph).2 ⟨phase, asleep.ne'⟩] at select
  exact step_of_nextInstr ((nextInstr_of_turn turn).trans select)

/-- Settles O3: the six selects of spec/30_encoding.md R102. -/
theorem eachSelectRunsItsStep : Obligations.EachSelectRunsItsStep := by
  intro s turn
  refine ⟨?service, ?poll, ?sleep, ?read, ?settle, ?eval⟩
  case service => exact fun phase awake => step_of_awake turn phase awake rfl
  case poll => exact fun phase awake => step_of_awake turn phase awake rfl
  case sleep => exact fun phase asleep => step_of_asleep turn phase asleep rfl
  case read => exact fun phase awake => step_of_awake turn phase awake rfl
  case settle => exact fun phase asleep => step_of_asleep turn phase asleep rfl
  case eval => exact fun phase awake => step_of_awake turn phase awake rfl

/-! ### STEP -/

theorem dispatcherSteps_one (s : State) : dispatcherSteps 1 s = dispatcherStep s := by
  rw [dispatcherSteps]
  cases dispatcherStep s <;> rfl

/-- Settles O35: the machine's step is the dispatcher's own, and counts of steps add up (`dispatcherSteps_add`). -/
theorem stepCountsAreRepeatedSteps : Obligations.StepCountsAreRepeatedSteps := by
  constructor
  · intro s turn
    rw [step_of_dispatcherTurn turn, exec_step_eq, dispatcherSteps_one]
  · intro s m n
    exact dispatcherSteps_add m n s

end Sys2Proof.Machine
end

section
/-! Settles the obligations about posts on a request queue (O8, O33) and the operations that write nothing (O27). -/

namespace Sys2Proof.Machine

open Sys2Proof

theorem postRequest_of_absent {s : State} {p : Nat} (absent : s.feq.length ≤ p) (k : Kind) :
    postRequest p k s = .refused .noSuchPort := if_neg (Nat.not_lt_of_le absent)

theorem serveRequest_of_absent {s : State} {p : Nat} (absent : s.feq.length ≤ p) (k : Kind) :
    serveRequest p k s = .refused .noSuchPort := if_neg (Nat.not_lt_of_le absent)

/-- Settles O8: posts, text commands and requests all ask first whether the port is there. -/
theorem absentPortsAreRefused : Obligations.AbsentPortsAreRefused := by
  refine ⟨?post, ?text, ?request⟩
  case post =>
    intro s p k absent
    exact postRequest_of_absent absent k
  case text =>
    intro s line absent
    exact ⟨postRequest_of_absent absent _, postRequest_of_absent absent _, postRequest_of_absent absent _⟩
  case request =>
    intro s p absent
    have refused : ∀ k, serveRequest p k s = .refused .noSuchPort := serveRequest_of_absent absent
    exact ⟨refused _, refused _, refused _, refused _, refused _⟩

theorem hasRoom_iff (depth : Option Nat) (n : Nat) : hasRoom depth n = true ↔ ∀ d, depth = some d → n < d := by
  cases depth <;> simp [hasRoom]

/-- A post with room joins the end of its port's queue and leaves the other queues (spec/43_boundary.md R206). -/
theorem postRequest_joins {s : State} {p : Nat} (present : p < s.feq.length)
    (room : ∀ d, s.cfg.feqDepth = some d → (s.queue p).length < d) (k : Kind) : ∃ queues,
      postRequest p k s = .next { s with feq := queues } ∧ queues.length = s.feq.length ∧
      queues[p]? = some (s.queue p ++ [k]) ∧ ∀ q, q ≠ p → queues[q]? = s.feq[q]? :=
  ⟨s.feq.set p (s.queue p ++ [k]), postRequest_of_room present ((hasRoom_iff _ _).2 room), List.length_set,
    List.getElem?_set_self present, fun _ ne => List.getElem?_set_ne ne.symm⟩

/-- Settles O33: each command is one post on the text channel's port (`postRequest_joins`). -/
theorem textCommandsPostTheirKind : Obligations.TextCommandsPostTheirKind := by
  intro s line present room c mem
  have joins := postRequest_joins present room
  simp only [List.mem_cons, List.not_mem_nil, or_false] at mem
  rcases mem with rfl | rfl | rfl
  · exact joins .data
  · exact joins .status
  · exact joins .help

/-- Settles O27: both by their definitions. -/
theorem getAndIdleWriteNothing : Obligations.GetAndIdleWriteNothing := fun _ => ⟨rfl, rfl⟩

end Sys2Proof.Machine
end

section
/-! Settles the obligations about the reads of a capture (O14, O49): one read is an APPEND and a settling delay, and a
capture is one read after another. -/

namespace Sys2Proof.Machine

open Sys2Proof

/-- Settles O14: APPEND keeps the parameters and the counts (`appendByte_frame`), and where it stops, so does the step. -/
theorem captureReadIssuesAppend : Obligations.CaptureReadIssuesAppend := by
  intro s b rest phase timer head
  refine (execDCapRead_of_cons phase timer head).trans ?_
  change andThen (appendByte b { s with rxq := rest }) _ = andThen (appendByte b { s with rxq := rest }) _
  cases append : appendByte b { s with rxq := rest } with
  | next u =>
    have frame := appendByte_frame append
    rw [frame]
    rfl
  | fault f => rfl
  | refused r => rfl

/-! ### Delays -/

/-- A delay of `n` ticks is `n` sleep steps (spec/41_dispatch.md R154, R156). -/
theorem dispatcherSteps_delay {n : Nat} {s : State} (phase : s.phase = .waiting ∨ s.phase = .capturing)
    (timer : s.timer = n) :
    dispatcherSteps n s = .next { s with timer := 0, now := s.now + n, steps := s.steps + n } := by
  induction n generalizing s with
  | zero =>
    change Host.Outcome.next s = .next { s with timer := 0 }
    rw [← timer]
  | succ n ih =>
    have tick : dispatcherStep s = .next (sleepTick s) := by
      unfold dispatcherStep
      rcases phase with phase | phase <;> rw [phase, timer]
      · exact execDWaitSleep_of_phase phase (timer ▸ n.succ_ne_zero)
      · exact execDCapSettle_of_phase phase (timer ▸ n.succ_ne_zero)
    have left : (sleepTick s).timer = n := by rw [sleepTick_timer, timer, Nat.add_sub_cancel]
    rw [dispatcherSteps, tick, andThen_of_next, ih (s := sleepTick s) phase left, sleepTick_now, sleepTick_steps,
      Nat.add_assoc, Nat.add_assoc, Nat.add_comm 1 n]
    rfl

/-! ### APPEND apart from the byte queue and the counts -/

/-- The state with another byte queue and other counts, which APPEND neither reads nor writes. -/
def State.paced (s : State) (rxq : List Byte) (now steps : Nat) : State :=
  { s with rxq := rxq, now := now, steps := steps }

section Paced

variable {s t : State} {rxq : List Byte} {now steps : Nat}

theorem appendByte_paced {b : Byte} (h : appendByte b s = .next t) :
    appendByte b (s.paced rxq now steps) = .next (t.paced rxq now steps) := by
  rcases appendByte_next h with ⟨lt, rfl⟩ | ⟨full, rfl⟩
  · exact appendByte_of_lt (s := s.paced rxq now steps) lt b
  · exact appendByte_of_full (s := s.paced rxq now steps) full b

theorem appendAll_paced {bytes : List Byte} (h : appendAll bytes s = .next t) :
    appendAll bytes (s.paced rxq now steps) = .next (t.paced rxq now steps) := by
  induction bytes generalizing s with
  | nil =>
    cases h
    rfl
  | cons b bs ih =>
    obtain ⟨u, first, others⟩ := andThen_next.1 h
    have first' : exec (.append b) (s.paced rxq now steps) = .next (u.paced rxq now steps) := appendByte_paced first
    rw [appendAll, first']
    exact ih others

end Paced

/-! ### Reads -/

theorem dispatcherStep_of_read {s : State} (phase : s.phase = .capturing) (timer : s.timer = 0) :
    dispatcherStep s = execDCapRead s := by
  unfold dispatcherStep
  rw [phase, timer]

/-- One read of a capture and its settling delay append the oldest byte (spec/41_dispatch.md R155, R156). -/
theorem dispatcherSteps_read {s u : State} {b : Byte} {rest : List Byte} (phase : s.phase = .capturing)
    (timer : s.timer = 0) (head : s.rxq = b :: rest) (append : appendByte b s = .next u) :
    dispatcherSteps (1 + s.cfg.tSettle) s =
      .next (u.paced rest (s.now + s.cfg.tSettle) (s.steps + (1 + s.cfg.tSettle))) := by
  have frame := appendByte_frame append
  have cfg : u.cfg = s.cfg := by rw [frame]
  have awake : u.timer = 0 := by rw [frame, timer]
  have still : u.phase = .capturing := by rw [frame, phase]
  have stored : appendByte b { s with rxq := rest } = .next (u.paced rest s.now s.steps) := appendByte_paced append
  have read : dispatcherStep s = .next { u.paced rest s.now (s.steps + 1) with timer := s.cfg.tSettle } := by
    rw [dispatcherStep_of_read phase timer, execDCapRead_of_cons phase timer head, stored, ← cfg]
    rfl
  rw [dispatcherSteps_add, dispatcherSteps_one, read, andThen_of_next]
  refine (dispatcherSteps_delay (s := { u.paced rest s.now (s.steps + 1) with timer := s.cfg.tSettle })
    (.inr still) rfl).trans ?_
  rw [← awake, ← Nat.add_assoc]
  rfl

/-- A capture of waiting bytes appends them one after another, each at the cost of one read and one settling delay
(spec/70_reset_and_hazards.md R285). -/
theorem dispatcherSteps_capture {s t : State} {bytes rest : List Byte} (phase : s.phase = .capturing)
    (timer : s.timer = 0) (queue : s.rxq = bytes ++ rest) (append : appendAll bytes s = .next t) :
    dispatcherSteps (bytes.length * (1 + s.cfg.tSettle)) s =
      .next (t.paced rest (s.now + bytes.length * s.cfg.tSettle)
        (s.steps + bytes.length * (1 + s.cfg.tSettle))) := by
  induction bytes generalizing s t with
  | nil =>
    cases append
    simp [dispatcherSteps, State.paced, ← show s.rxq = rest from queue]
  | cons b bs ih =>
    obtain ⟨u, first, others⟩ := andThen_next.1 append
    have frame := appendByte_frame first
    have cfg : u.cfg = s.cfg := by rw [frame]
    have read := dispatcherSteps_read (rest := bs ++ rest) phase timer queue first
    have later := ih (s := u.paced (bs ++ rest) (s.now + s.cfg.tSettle) (s.steps + (1 + s.cfg.tSettle)))
      (by rw [← phase, frame]; rfl) (by rw [← timer, frame]; rfl) rfl (appendAll_paced others)
    change dispatcherSteps (bs.length * (1 + u.cfg.tSettle)) _ = .next (t.paced rest
      (s.now + s.cfg.tSettle + bs.length * u.cfg.tSettle)
      (s.steps + (1 + s.cfg.tSettle) + bs.length * (1 + u.cfg.tSettle))) at later
    rw [cfg] at later
    rw [List.length_cons, Nat.succ_mul, Nat.succ_mul, Nat.add_comm (_ * (1 + _)), Nat.add_comm (_ * s.cfg.tSettle),
      dispatcherSteps_add, read, andThen_of_next, later, Nat.add_assoc s.now, Nat.add_assoc s.steps]

/-- Settles O49: by induction on the bytes, one paced read at a time. -/
theorem captureTakesOneBytePerDelay : Obligations.CaptureTakesOneBytePerDelay :=
  fun _ _ _ _ phase timer queue append => dispatcherSteps_capture phase timer queue append

end Sys2Proof.Machine
end

section
/-! Settles O39: on the dispatcher's turn the step is one of its moves, which keep the invariants
(`DispatcherMove.inv`); every other step is a move of the surroundings: a byte or a request joins a queue, STEP makes
the dispatcher's moves, and RESET empties the buffer. -/

namespace Sys2Proof.Machine

open Sys2Proof

/-- The instructions that the surroundings can bring about, by a script, a line, a route or an offer
(spec/43_boundary.md R209, spec/30_encoding.md R105, R110). -/
inductive BoundaryMove : Instr → Prop where
  | deliver (b : Byte) : BoundaryMove (.deliver b)
  | post (p : Nat) (k : Kind) : BoundaryMove (.post p k)
  | cmdData (line : Line) : BoundaryMove (.cmdData line)
  | cmdStatus (line : Line) : BoundaryMove (.cmdStatus line)
  | cmdOther (line : Line) : BoundaryMove (.cmdOther line)
  | step (n : Nat) : BoundaryMove (.step n)
  | reset : BoundaryMove .reset

/-! ### What the surroundings' words stand for -/

theorem decodeStim_boundaryMove {w : BitVec 12} {i : Instr} (h : decodeStim w = .instr i) : BoundaryMove i := by
  unfold decodeStim at h
  split at h
  case h_1 =>
    cases h
    exact .deliver _
  case h_2 =>
    split at h
    · cases h
    · split at h <;> cases h
      exact .post _ _
  case h_3 =>
    split at h <;> cases h
    exact .step _
  case h_4 =>
    split at h <;> cases h
    exact .reset
  case h_5 => cases h

theorem decodeLine_boundaryMove {line : Line} {i : Instr} (h : decodeLine line = .instr i) : BoundaryMove i := by
  unfold decodeLine at h
  split at h
  · cases h
    exact .cmdData line
  · split at h <;> cases h
    · exact .cmdStatus line
    · exact .cmdOther line

theorem offer_boundaryMove {s : State} {o : Offer} {i : Instr} (h : s.offer o = some i) : BoundaryMove i := by
  rcases offer_some h with ⟨b, rfl, -⟩ | ⟨p, k, rfl, -⟩ | rfl
  · exact .deliver b
  · exact .post p k
  · exact .reset

/-- What runs next is a move of the surroundings, unless it is the dispatcher's turn. -/
theorem nextInstr_boundaryMove {s : State} {i : Instr} (h : nextInstr s = .instr i) :
    s.dispatcherTurn ∨ BoundaryMove i := by
  rcases nextInstr_cases h with ⟨turn, -⟩ | ⟨o, -, offer⟩ | ⟨w, rest, -, word⟩ | ⟨l, rest, -, line⟩ | ⟨p, k, rfl⟩
  · exact .inl turn
  · exact .inr (offer_boundaryMove offer)
  · exact .inr (decodeStim_boundaryMove word)
  · exact .inr (decodeLine_boundaryMove line)
  · exact .inr (.post p k)

/-- A step of the machine that answers a next state is a move of the dispatcher or of the surroundings. -/
theorem step_cases {s t : State} (h : step s = .next t) :
    DispatcherMove (taken s) t ∨ ∃ i, BoundaryMove i ∧ exec i (taken s) = .next t := by
  cases next : nextInstr s with
  | instr i =>
    rcases nextInstr_boundaryMove next with turn | move
    · rw [step_of_dispatcherTurn turn] at h
      exact .inl (dispatcherStep_move h)
    · rw [step_of_nextInstr next] at h
      exact .inr ⟨i, move, h⟩
  | reject e =>
    rw [step_of_rejected next] at h
    unfold rejected at h
    split at h <;> cases h

/-! ### The moves of the surroundings keep the invariants -/

/-- The invariants say nothing of the queues at the boundary. -/
theorem State.Inv.withQueues {s : State} (inv : s.Inv) (rxq : List Byte) (feq : List (List Kind)) :
    State.Inv { s with rxq := rxq, feq := feq } :=
  ⟨inv.canonical, inv.fill, inv.aboveFill, inv.noDelay, inv.sleep, inv.settle, inv.drained⟩

theorem postRequest_inv {p : Nat} {k : Kind} {s t : State} (inv : s.Inv) (h : postRequest p k s = .next t) :
    t.Inv := by
  obtain ⟨-, -, rfl⟩ := postRequest_next h
  exact inv.withQueues s.rxq _

theorem execDeliver_next {b : Byte} {s t : State} (h : execDeliver b s = .next t) :
    t = { s with rxq := s.rxq ++ [b] } := by
  unfold execDeliver at h
  split at h
  · split at h <;> cases h
    rfl
  · cases h

theorem execDeliver_inv {b : Byte} {s t : State} (inv : s.Inv) (h : execDeliver b s = .next t) : t.Inv := by
  rw [execDeliver_next h]
  exact inv.withQueues _ s.feq

theorem dispatcherSteps_inv {n : Nat} {s t : State} (inv : s.Inv) (h : dispatcherSteps n s = .next t) : t.Inv := by
  obtain ⟨u, run, kept⟩ := dispatcherSteps_answers n inv
  cases run.symm.trans h
  exact kept

theorem resetBlock_inv (s : State) : (resetBlock s).Inv := by
  rw [resetBlock_eq]
  exact inv_of_servicing rfl rfl ⟨rfl, rfl⟩

theorem BoundaryMove.exec_inv {i : Instr} (move : BoundaryMove i) {s t : State} (inv : s.Inv)
    (h : exec i s = .next t) : t.Inv := by
  cases move with
  | deliver b => exact execDeliver_inv inv h
  | post p k => exact postRequest_inv inv h
  | cmdData line => exact postRequest_inv inv h
  | cmdStatus line => exact postRequest_inv inv h
  | cmdOther line => exact postRequest_inv inv h
  | step n => exact dispatcherSteps_inv inv h
  | reset =>
    cases h
    exact resetBlock_inv s

/-- Settles O39: by whose move the step is (`step_cases`). -/
theorem everyStepKeepsTheInvariants : Obligations.EveryStepKeepsTheInvariants := by
  intro s t inv h
  rcases step_cases h with move | ⟨i, move, run⟩
  · exact move.inv (inv_taken inv)
  · exact move.exec_inv (inv_taken inv) run

end Sys2Proof.Machine
end

section
/-! Settles the obligations about APPEND and the steps that issue it or EVALUATE (O12, O15, O16, O17). -/

namespace Sys2Proof.Machine

open Sys2Proof

/-- Settles O17: at capacity the buffer is cleared and Overrun emitted (`appendByte_of_full`). -/
theorem appendRefusesAtCapacity : Obligations.AppendRefusesAtCapacity :=
  fun _ b full => appendByte_of_full full b

/-- Settles O16: below capacity one cell is written (`appendByte_of_lt`). -/
theorem appendStoresAtTheFillCount : Obligations.AppendStoresAtTheFillCount :=
  fun s b canonical lt => ⟨writeCell s.buf s.length.toNat b, appendByte_of_lt lt b,
    readCell_writeCell_self canonical _ b, fun _ ne => readCell_writeCell_other canonical ne b⟩

/-- Settles O12: the byte read is appended to what the buffer held, by the two branches of APPEND. -/
theorem captureReadsOneByte : Obligations.CaptureReadsOneByte := by
  intro s b rest phase timer head canonical
  have read := execDCapRead_of_cons phase timer head
  constructor
  · intro lt
    refine ⟨writeCell s.buf s.length.toNat b, read.trans ?_, readCell_writeCell_self canonical _ b,
      fun _ ne => readCell_writeCell_other canonical ne b⟩
    rw [appendByte_of_lt (s := { s with rxq := rest }) lt]
    rfl
  · intro full
    refine read.trans ?_
    rw [appendByte_of_full (s := { s with rxq := rest }) full]
    rfl

/-- Settles O15: EVALUATE answers at every legal fill count, and it keeps the counts and `opResult`
(`evaluateFrame_frame`). -/
theorem evaluationStepGoesToServicing : Obligations.EvaluationStepGoesToServicing := by
  intro s phase timer legal
  obtain ⟨u, eval⟩ : answersNext (evaluateFrame s) := ⟨_, evaluateFrame_of_legal legal⟩
  refine ⟨{ u with opResult := some (.outcome (evalTag s)) }, ?_, (execDEval_of_phase phase timer).trans ?_⟩
  · change andThen (evaluateFrame s) _ = _
    rw [eval, andThen_of_next]
  · rw [eval, evaluateFrame_frame eval]
    rfl

end Sys2Proof.Machine
end

section
/-! Settles O48: what a burst of any length leaves in an empty buffer (spec/40_framer.md R137), by induction from its
last byte. -/

namespace Sys2Proof.Machine

open Sys2Proof

theorem appendAll_append (as bs : List Byte) (s : State) :
    appendAll (as ++ bs) s = andThen (appendAll as s) (appendAll bs) := by
  induction as generalizing s with
  | nil => rfl
  | cons a as ih =>
    rw [List.cons_append, appendAll, appendAll, andThen_assoc]
    congr 1
    exact funext ih

theorem appendAll_singleton (b : Byte) (s : State) : appendAll [b] s = appendByte b s := by
  change andThen (appendByte b s) Host.Outcome.next = _
  cases appendByte b s <;> rfl

/-- The buffer after the bytes of a burst: since the last overrun the bytes stand from offset 0 on, with zeros above. -/
structure HoldsBurst (bytes : List Byte) (cells : List Host.Cell) (n : FillCount) : Prop where
  canonical : Memory.wf cells = true
  fill : n.toNat = bytes.length % 21
  held : ∀ a, readCell cells a = if a < bytes.length % 21 then bytes.getD (bytes.length / 21 * 21 + a) 0 else 0

theorem holdsBurst_nil : HoldsBurst [] [] 0 := ⟨rfl, rfl, fun _ => rfl⟩

section Burst

variable {bytes : List Byte} {cells : List Host.Cell} {n : FillCount}

/-- A byte below capacity takes the next offset. -/
theorem HoldsBurst.store (h : HoldsBurst bytes cells n) (lt : n.toNat < 20) (b : Byte) :
    HoldsBurst (bytes ++ [b]) (writeCell cells n.toNat b) (n + 1) := by
  have fill := h.fill
  have size : (bytes ++ [b]).length = bytes.length + 1 := List.length_append
  have quotient : (bytes.length + 1) / 21 = bytes.length / 21 := by omega
  have remainder : (bytes.length + 1) % 21 = n.toNat + 1 := by omega
  refine ⟨writeCell_wf h.canonical lt b, ?_, fun a => ?_⟩
  · rw [fillCount_succ_toNat lt, size, remainder]
  · rw [readCell_writeCell h.canonical, h.held, size, quotient, remainder]
    rcases Nat.lt_trichotomy a n.toNat with below | rfl | above
    · rw [if_neg (by omega), if_pos (by omega), if_pos (by omega), List.getD_append _ _ _ _ (by omega)]
    · have last : bytes.length / 21 * 21 + n.toNat = bytes.length := by omega
      rw [if_pos rfl, if_pos (by omega), last, List.getD_append_right _ _ _ _ (Nat.le_refl _), Nat.sub_self]
      rfl
    · rw [if_neg (by omega), if_neg (by omega), if_neg (by omega)]

/-- A byte at capacity is refused and the count starts again. -/
theorem HoldsBurst.refuse (h : HoldsBurst bytes cells n) (full : n.toNat = 20) (b : Byte) :
    HoldsBurst (bytes ++ [b]) [] 0 := by
  have fill := h.fill
  have size : (bytes ++ [b]).length = bytes.length + 1 := List.length_append
  have remainder : (bytes.length + 1) % 21 = 0 := by omega
  refine ⟨rfl, ?_, fun a => ?_⟩
  · rw [size, remainder]
    rfl
  · rw [size, remainder, if_neg (Nat.not_lt_zero a), readCell_nil]

end Burst

/-- The state after a burst of bytes on an empty buffer. -/
theorem appendAll_burst {s : State} (buf : s.buf = []) (length : s.length = 0) (bytes : List Byte) : ∃ cells n,
    appendAll bytes s = .next { s with
      buf := cells, length := n, trace := s.trace ++ List.replicate (bytes.length / 21) .overrun } ∧
    HoldsBurst bytes cells n := by
  induction bytes using List.reverseRecOn with
  | nil =>
    refine ⟨[], 0, ?_, holdsBurst_nil⟩
    rw [← buf, ← length]
    simp [appendAll]
  | append_singleton bytes b ih =>
    obtain ⟨cells, n, run, holds⟩ := ih
    have fill := holds.fill
    have size : (bytes ++ [b]).length = bytes.length + 1 := List.length_append
    rw [appendAll_append, run, andThen_of_next, appendAll_singleton, size]
    rcases (show n.toNat < 20 ∨ n.toNat = 20 by omega) with lt | full
    · have overruns : (bytes.length + 1) / 21 = bytes.length / 21 := by omega
      refine ⟨writeCell cells n.toNat b, n + 1, ?_, holds.store lt b⟩
      rw [overruns]
      exact appendByte_of_lt lt b
    · have overruns : (bytes.length + 1) / 21 = bytes.length / 21 + 1 := by omega
      refine ⟨[], 0, ?_, holds.refuse full b⟩
      rw [overruns, List.replicate_succ', ← List.append_assoc]
      exact appendByte_of_full full b

/-- Settles O48: one byte after another (`appendAll_burst`). -/
theorem fillCountAfterABurst : Obligations.FillCountAfterABurst := by
  intro s bytes buf length
  obtain ⟨cells, n, run, holds⟩ := appendAll_burst buf length bytes
  exact ⟨cells, n, run, holds.fill, holds.held⟩

/-- Twenty bytes fill an empty buffer and overrun nothing. -/
theorem appendAll_wholeFrame {s : State} (buf : s.buf = []) (length : s.length = 0) {bytes : List Byte}
    (size : bytes.length = 20) : ∃ cells,
    appendAll bytes s = .next { s with buf := cells, length := 20 } ∧
    ∀ a, a < 20 → readCell cells a = bytes.getD a 0 := by
  obtain ⟨cells, n, run, holds⟩ := appendAll_burst buf length bytes
  obtain ⟨-, fill, held⟩ := holds
  rw [size] at run fill held
  obtain rfl : n = 20 := BitVec.eq_of_toNat_eq fill
  refine ⟨cells, ?_, fun a lt => ?_⟩
  · simpa using run
  · simpa [lt] using held a

end Sys2Proof.Machine
end

section
/-! Settles the obligations about a whole report (O50, O51): its evaluation, and the service pass after it. -/

namespace Sys2Proof.Machine

open Sys2Proof

/-! ### The service pass as a whole -/

/-- Serving the ports from `done.length` on empties their queues `qs` and answers them in ascending order
(spec/41_dispatch.md R160). -/
theorem servePorts_range' {s : State} {done qs : List (List Kind)} (feq : s.feq = done ++ qs) :
    servePorts (List.range' done.length qs.length) s = { s with
      feq := done ++ qs.map fun _ => [], trace := s.trace ++ passAnswers s.reading done.length qs } := by
  induction qs generalizing s done with
  | nil => simp [servePorts, passAnswers, ← feq]
  | cons ks qs ih =>
    have queue : s.queue done.length = ks := by simp [State.queue, feq]
    have emptied : s.feq.set done.length [] = (done ++ [[]]) ++ qs := by simp [feq]
    have served := servePort_of_queue queue
    rw [emptied] at served
    rw [List.length_cons, List.range'_succ, servePorts, queue, served]
    have others := ih (s := { s with
      feq := (done ++ [[]]) ++ qs, trace := s.trace ++ portAnswers s.reading done.length ks }) rfl
    rw [List.length_append, List.length_singleton] at others
    rw [others]
    simp [passAnswers]

theorem serviceAll_eq (s : State) : serviceAll s = { s with
    feq := s.feq.map fun _ => [], trace := s.trace ++ passAnswers s.reading 0 s.feq } := by
  rw [serviceAll, List.range_eq_range']
  exact servePorts_range' (done := []) rfl

/-! ### The evaluation of a report -/

theorem dispatcherStep_of_poll {s : State} (phase : s.phase = .waiting) (timer : s.timer = 0) :
    dispatcherStep s = execDWaitPoll s := by
  unfold dispatcherStep
  rw [phase, timer]

theorem dispatcherStep_of_evaluating {s : State} (phase : s.phase = .evaluating) (timer : s.timer = 0) :
    dispatcherStep s = execDEval s := by
  unfold dispatcherStep
  rw [phase, timer]

/-- D_EVAL on a full buffer with the report's header accepts its reading (spec/41_dispatch.md R157). -/
theorem execDEval_of_report {s : State} (phase : s.phase = .evaluating) (timer : s.timer = 0)
    (full : s.length.toNat = 20) (hdr : headerBits s.buf = 0x16110B0000#40) :
    execDEval s = .next (counted 0 { acceptReading (frameReading s.buf) s with phase := .servicing }) := by
  rw [execDEval_of_phase phase timer, evaluateFrame_of_legal full.le, if_pos (evalTag_valid full hdr), andThen_of_next]

/-! ### A report that waits at a poll (spec/70_reset_and_hazards.md R285) -/

/-- The bytes of a report in their order of arrival (spec/30_encoding.md R91). -/
def reportBytes (high low : Byte) (trailer : List Byte) : List Byte :=
  [0x16, 0x11, 0x0B, 0x00, 0x00, high, low] ++ trailer

theorem headerBits_of_reportBytes {cells : List Host.Cell} {high low : Byte} {trailer : List Byte}
    (held : ∀ a, a < 20 → readCell cells a = (reportBytes high low trailer).getD a 0) :
    headerBits cells = 0x16110B0000#40 :=
  (headerBits_eq_iff cells).2 ⟨held 0 (by decide), held 1 (by decide), held 2 (by decide), held 3 (by decide),
    held 4 (by decide)⟩

theorem frameReading_of_reportBytes {cells : List Host.Cell} {high low : Byte} {trailer : List Byte}
    (held : ∀ a, a < 20 → readCell cells a = (reportBytes high low trailer).getD a 0) :
    frameReading cells = high ++ low := by
  have byte5 : readCell cells pmOff = high := held 5 (by decide)
  have byte6 : readCell cells (pmOff + 1) = low := held 6 (by decide)
  rw [frameReading, assembleReading_eq_append, byte5, byte6]

/-- The poll that ends a burst and the evaluation after it, on a report that has been captured. -/
theorem dispatcherSteps_decode {s : State} (phase : s.phase = .capturing) (timer : s.timer = 0) (drained : s.rxq = [])
    (full : s.length.toNat = 20) (hdr : headerBits s.buf = 0x16110B0000#40) :
    dispatcherSteps 2 s = .next { acceptReading (frameReading s.buf) s with
      phase := .servicing, steps := s.steps + 2 } := by
  have ended : dispatcherStep s = .next (counted 0 { s with phase := .evaluating }) :=
    (dispatcherStep_of_read phase timer).trans (execDCapRead_of_nil phase timer drained)
  have evaluated := execDEval_of_report (s := counted 0 { s with phase := .evaluating }) rfl timer full hdr
  rw [dispatcherSteps_add 1 1, dispatcherSteps_one, ended, andThen_of_next, dispatcherSteps_one]
  exact (dispatcherStep_of_evaluating (s := counted 0 { s with phase := .evaluating }) rfl timer).trans evaluated

/-- A capture that finds a whole report queued takes its 20 bytes (`dispatcherSteps_capture`, what they leave in the
buffer by `appendAll_wholeFrame`) and decodes it. -/
theorem dispatcherSteps_report {s : State} {high low : Byte} {trailer : List Byte} (phase : s.phase = .capturing)
    (timer : s.timer = 0) (buf : s.buf = []) (length : s.length = 0) (size : trailer.length = 13)
    (queue : s.rxq = reportBytes high low trailer) :
    dispatcherSteps (20 * (1 + s.cfg.tSettle) + 2) s = .next { s with
      rxq := []
      reading := high ++ low
      lastOutcome := .tag .valid
      phase := .servicing
      trace := s.trace ++ [.echo (high ++ low), .eval .valid]
      now := s.now + 20 * s.cfg.tSettle
      steps := s.steps + (20 * (1 + s.cfg.tSettle) + 2) } := by
  have twenty : (reportBytes high low trailer).length = 20 := by simp [reportBytes, size]
  obtain ⟨cells, append, held⟩ := appendAll_wholeFrame buf length twenty
  have capture := dispatcherSteps_capture (rest := []) phase timer (by rw [queue, List.append_nil]) append
  rw [twenty] at capture
  have decode := dispatcherSteps_decode (s := State.paced { s with buf := cells, length := 20 } []
    (s.now + 20 * s.cfg.tSettle) (s.steps + 20 * (1 + s.cfg.tSettle)))
    phase timer rfl rfl (headerBits_of_reportBytes held)
  have reading : frameReading cells = high ++ low := frameReading_of_reportBytes held
  rw [dispatcherSteps_add, capture, andThen_of_next]
  refine decode.trans ?_
  rw [acceptReading_eq, ← reading, ← buf, ← length]
  rfl

/-- Settles O50: the poll that finds the report (spec/41_dispatch.md R153), then its capture and decoding
(`dispatcherSteps_report`). -/
theorem wholeFrameIsDecoded : Obligations.WholeFrameIsDecoded := by
  intro s high low trailer phase timer buf length size queue
  have poll : dispatcherStep s = .next (counted 0 { s with phase := .capturing }) :=
    (dispatcherStep_of_poll phase timer).trans (execDWaitPoll_of_cons phase timer queue)
  have decoded := dispatcherSteps_report (s := counted 0 { s with phase := .capturing }) rfl timer buf length size queue
  have count : 20 * (1 + s.cfg.tSettle) + 3 = 1 + (20 * (1 + s.cfg.tSettle) + 2) := by omega
  rw [exec_step_eq, count, dispatcherSteps_add, dispatcherSteps_one, poll, andThen_of_next, ← Nat.add_assoc s.steps]
  exact decoded

/-! ### A report in the buffer, GET and the service pass (spec/42_cache.md R192) -/

/-- A buffer that holds a report has its header and its reading. -/
theorem holding_report (s : State) (v : Reading) (trailer : BitVec 104) :
    headerBits (s.holding (0x16110B0000#40 ++ v ++ trailer)).buf = 0x16110B0000#40 ∧
      frameReading (s.holding (0x16110B0000#40 ++ v ++ trailer)).buf = v := by
  have frame := frameBits_holding s (0x16110B0000#40 ++ v ++ trailer)
  rw [frameBits_eq_append] at frame
  obtain ⟨upper, -⟩ := append_eq_append_iff.1 frame
  exact append_eq_append_iff.1 upper

/-- Settles O51: D_EVAL accepts the reading, GET returns it, and the service pass answers with it (`serviceAll_eq`). -/
theorem frameValueReachesTheFrontEnds : Obligations.FrameValueReachesTheFrontEnds := by
  intro s v trailer phase timer
  obtain ⟨hdr, reading⟩ := holding_report s v trailer
  have eval := execDEval_of_report (s := s.holding (0x16110B0000#40 ++ v ++ trailer)) (by simpa using phase)
    (by simpa using timer) (by simp) hdr
  rw [reading, acceptReading_holding] at eval
  refine ⟨_, _, eval, rfl, rfl, ?_⟩
  refine (execDService_of_phase (s := counted 0 { acceptReading v s with phase := .servicing }) rfl timer).trans ?_
  rw [serviceAll_eq, acceptReading_eq]
  rfl

end Sys2Proof.Machine
end

section
/-! Settles the obligations about the service pass (O5) and about what each dispatcher step does where the state selects
it (O9, O10, O11, O13, O52). -/

namespace Sys2Proof.Machine

open Sys2Proof

/-- Settles O5: the pass goes over the ports by induction on their queues (`servePorts_range'`). -/
theorem serviceAllAnswersEveryQueuedRequest : Obligations.ServiceAllAnswersEveryQueuedRequest :=
  fun s => congrArg Host.Outcome.next (serviceAll_eq s)

/-- Settles O9: the step is one service pass (`serviceAll_eq`) and a change of phase. -/
theorem serviceStepServesThenWaits : Obligations.ServiceStepServesThenWaits := by
  intro s phase timer
  refine (execDService_of_phase phase timer).trans ?_
  rw [serviceAll_eq]
  rfl

/-- Settles O10: by whether a byte is queued. -/
theorem pollPrefersTheByte : Obligations.PollPrefersTheByte := by
  intro s phase timer
  constructor
  · intro avail
    obtain ⟨b, rest, head⟩ := List.exists_cons_of_ne_nil avail
    exact execDWaitPoll_of_cons phase timer head
  · intro idle
    refine (execDWaitPoll_of_nil phase timer idle).trans ?_
    rw [serviceAll_eq]
    rfl

/-- Settles O11: both steps are one tick of the delay. -/
theorem sleepsCountDownOneTick : Obligations.SleepsCountDownOneTick :=
  ⟨fun _ phase asleep => execDWaitSleep_of_phase phase asleep.ne',
    fun _ phase asleep => execDCapSettle_of_phase phase asleep.ne'⟩

/-- Settles O13: with no byte queued the read only ends the burst. -/
theorem captureEndsAtAnEmptyPoll : Obligations.CaptureEndsAtAnEmptyPoll :=
  fun _ phase timer idle => execDCapRead_of_nil phase timer idle

/-- Settles O52: by induction on the ticks left (`dispatcherSteps_delay`). -/
theorem delaysRunOut : Obligations.DelaysRunOut :=
  fun _ phase => dispatcherSteps_delay phase rfl

end Sys2Proof.Machine
end

section
/-! Settles the rules about every turn of the dispatcher: its transitions (O42), and that it serves no request during a
capture (O44). -/

namespace Sys2Proof.Machine

open Sys2Proof

/-! ### The transitions -/

/-- Settles O42: one row, or two where a delay may run in two phases, for each move of the dispatcher
(`DispatcherMove`), whose select names the phase and the timer before it. -/
theorem phaseTransitions : Obligations.PhaseTransitions := by
  intro s t turn h
  rw [step_of_dispatcherTurn turn] at h
  cases dispatcherStep_move h with
  | service sel =>
    obtain ⟨phase, -⟩ := (dsel_awake_iff (taken s) .servicing).1 sel
    exact .inl ⟨phase, rfl⟩
  | pollByte sel avail =>
    obtain ⟨phase, timer⟩ := (dsel_awake_iff (taken s) .waiting).1 sel
    exact .inr (.inl ⟨phase, timer, avail, rfl⟩)
  | pollIdle sel idle =>
    obtain ⟨phase, timer⟩ := (dsel_awake_iff (taken s) .waiting).1 sel
    exact .inr (.inr (.inl ⟨phase, timer, idle, (serviceAll_phase (taken s)).trans phase, rfl⟩))
  | sleep sel =>
    rcases sel with sel | sel
    · obtain ⟨phase, asleep⟩ := (dsel_asleep_iff (taken s) .waiting).1 sel
      exact .inr (.inr (.inr (.inl ⟨phase, Nat.pos_of_ne_zero asleep, phase, rfl⟩)))
    · obtain ⟨phase, asleep⟩ := (dsel_asleep_iff (taken s) .capturing).1 sel
      exact .inr (.inr (.inr (.inr (.inr (.inr (.inl ⟨phase, Nat.pos_of_ne_zero asleep, phase, rfl⟩))))))
  | @read b rest u sel head append =>
    obtain ⟨phase, timer⟩ := (dsel_awake_iff (taken s) .capturing).1 sel
    have avail : s.rxq ≠ [] := List.ne_nil_of_mem (head ▸ List.mem_cons_self)
    have still : u.phase = .capturing := by rw [appendByte_frame append]; exact phase
    have delay : u.cfg.tSettle = s.cfg.tSettle := by rw [appendByte_frame append]; rfl
    exact .inr (.inr (.inr (.inr (.inl ⟨phase, timer, avail, still, delay⟩))))
  | endCapture sel idle =>
    obtain ⟨phase, timer⟩ := (dsel_awake_iff (taken s) .capturing).1 sel
    exact .inr (.inr (.inr (.inr (.inr (.inl ⟨phase, timer, idle, rfl⟩)))))
  | evaluate sel _ =>
    obtain ⟨phase, -⟩ := (dsel_awake_iff (taken s) .evaluating).1 sel
    exact .inr (.inr (.inr (.inr (.inr (.inr (.inr ⟨phase, rfl⟩))))))

/-! ### No service during a capture -/

/-- No front end is given anything: every queue, and every port's answers, are as before. -/
structure ServesNone (s t : State) : Prop where
  feq : t.feq = s.feq
  answers : ∀ p, answers t p = answers s p

/-- Events that are no answer leave every port's answers (spec/60_exceptions.md R234). -/
theorem answers_of_internal {s t : State} {es : List Event} (ht : t.trace = s.trace ++ es)
    (internal : ∀ e ∈ es, ∀ p, e.toFrontEnd p = none) (p : Nat) : answers t p = answers s p := by
  have none : es.filterMap (Event.toFrontEnd p) = [] := List.filterMap_eq_nil_iff.2 fun e mem => internal e mem p
  rw [answers_of_trace_append ht, none, List.append_nil]

/-- The one event of APPEND is Overrun (spec/40_framer.md R131). -/
theorem appendByte_servesNone {b : Byte} {s t : State} (h : appendByte b s = .next t) : ServesNone s t := by
  rcases appendByte_next h with ⟨-, rfl⟩ | ⟨-, rfl⟩
  · exact ⟨rfl, fun _ => rfl⟩
  · exact ⟨rfl, answers_of_internal rfl (by simp [Event.toFrontEnd])⟩

/-- The events of EVALUATE are Echo and Eval (spec/40_framer.md R132). -/
theorem evaluateFrame_servesNone {s t : State} (h : evaluateFrame s = .next t) : ServesNone s t := by
  obtain ⟨-, ⟨-, rfl⟩ | ⟨-, rfl⟩⟩ := evaluateFrame_next h
  · rw [acceptReading_eq]
    exact ⟨rfl, answers_of_internal rfl (by simp [Event.toFrontEnd])⟩
  · rw [finishEvaluation_eq]
    exact ⟨rfl, answers_of_internal rfl (by simp [Event.toFrontEnd])⟩

/-- Of the dispatcher's moves only the two with a service pass serve, and neither is selected in CAPTURING or EVALUATING
(spec/41_dispatch.md R165). -/
theorem DispatcherMove.servesNone {s t : State} (h : DispatcherMove s t)
    (phase : s.phase = .capturing ∨ s.phase = .evaluating) : ServesNone s t := by
  cases h with
  | service sel =>
    obtain ⟨servicing, -⟩ := (dsel_awake_iff s .servicing).1 sel
    simp [servicing] at phase
  | pollByte _ _ => exact ⟨rfl, fun _ => rfl⟩
  | pollIdle sel _ =>
    obtain ⟨waiting, -⟩ := (dsel_awake_iff s .waiting).1 sel
    simp [waiting] at phase
  | sleep _ => exact ⟨rfl, fun _ => rfl⟩
  | @read b rest u _ _ append =>
    have kept : ServesNone { s with rxq := rest } u := appendByte_servesNone append
    exact ⟨kept.feq, kept.answers⟩
  | endCapture _ _ => exact ⟨rfl, fun _ => rfl⟩
  | evaluate _ eval =>
    have kept := evaluateFrame_servesNone eval
    exact ⟨kept.feq, kept.answers⟩

/-- Settles O44: on its turn the dispatcher makes one of its moves (`DispatcherMove.servesNone`). -/
theorem noServiceDuringACapture : Obligations.NoServiceDuringACapture := by
  intro s t turn phase h
  rw [step_of_dispatcherTurn turn] at h
  have kept : ServesNone (taken s) t := (dispatcherStep_move h).servesNone phase
  exact ⟨kept.feq, kept.answers⟩

end Sys2Proof.Machine
end

section
/-! Settles O60: a sender that has a byte ready at every poll. Its supply brings the machine back to the same place of the
loop, so the run is an induction on an invariant of the machine's steps (`StillCaptured`): where the repeating supply
stands, and that the state differs from the first one only in the capture. -/

namespace Sys2Proof.Machine

open Sys2Proof

/-- A property that every step meets again holds after any number of steps, none of which stops. -/
theorem machineSteps_of_invariant {P : State → Prop} (keeps : ∀ s, P s → ∃ t, step s = .next t ∧ P t) (n : Nat)
    {s : State} (start : P s) : ∃ t, machineSteps n s = .next t ∧ P t := by
  induction n generalizing s with
  | zero => exact ⟨s, rfl, start⟩
  | succ n ih =>
    obtain ⟨u, run, kept⟩ := keeps s start
    rw [machineSteps, run]
    exact ih kept

/-! ### The due move of a script and of a repeating supply -/

theorem pending_of_script {s : State} {m : Move} {rest : List Move} (h : s.script = m :: rest) :
    s.pending = m :: rest := by
  simp only [State.pending, h]

/-- With the script used up a repeating supply starts again. -/
theorem pending_of_cycle {s : State} {moves : List Move} (script : s.script = []) (supply : s.supply = .cycle moves) :
    s.pending = moves := by
  simp only [State.pending, script, supply]

/-- `DELIVER b` as a script word (spec/30_encoding.md R112). -/
def deliverWord (b : Byte) : Move := .word (0x1#4 ++ b)

/-- `STEP 1` as a script word (R112). -/
def stepOneWord : Move := .word 0x301

theorem step_of_deliverWord {s : State} {b : Byte} {rest : List Move} (due : s.pending = deliverWord b :: rest) :
    step s = execDeliver b { s with script := rest } :=
  step_of_pending due ((nextInstr_of_word due).trans (decodeStim_deliver b))

theorem step_of_stepOneWord {s : State} {rest : List Move} (due : s.pending = stepOneWord :: rest) :
    step s = dispatcherStep { s with script := rest } :=
  (step_of_pending due ((nextInstr_of_word due).trans (decodeStim_step 1))).trans (dispatcherSteps_one _)

/-- In CAPTURING at a positive timer the dispatcher's own step is one tick of the delay (spec/41_dispatch.md R156). -/
theorem dispatcherStep_of_settle {s : State} {n : Nat} (phase : s.phase = .capturing) (timer : s.timer = n + 1) :
    dispatcherStep s = .next (sleepTick s) := by
  unfold dispatcherStep
  rw [phase, timer]
  exact execDCapSettle_of_phase phase (timer ▸ n.succ_ne_zero)

/-- In CAPTURING at timer 0 with a byte queued the dispatcher's own step appends it and loads the timer (R155). -/
theorem dispatcherStep_of_append {s u : State} {b : Byte} {rest : List Byte} (phase : s.phase = .capturing)
    (timer : s.timer = 0) (head : s.rxq = b :: rest) (append : appendByte b { s with rxq := rest } = .next u) :
    dispatcherStep s = .next (counted 0 { u with timer := u.cfg.tSettle }) := by
  rw [dispatcherStep_of_read phase timer, execDCapRead_of_cons phase timer head, append, andThen_of_next]

/-! ### What a turn of the sender keeps -/

/-- No more than the capture has gone on: no front end is served, and the launch, the supply, the phase and the reading
are as before. -/
structure SameCapture (s t : State) : Prop extends ServesNone s t where
  cfg : t.cfg = s.cfg
  supply : t.supply = s.supply
  phase : t.phase = s.phase
  reading : t.reading = s.reading

theorem SameCapture.refl (s : State) : SameCapture s s := ⟨⟨rfl, fun _ => rfl⟩, rfl, rfl, rfl, rfl⟩

theorem SameCapture.trans {s t u : State} (h : SameCapture s t) (k : SameCapture t u) : SameCapture s u where
  feq := k.feq.trans h.feq
  answers := fun p => (k.answers p).trans (h.answers p)
  cfg := k.cfg.trans h.cfg
  supply := k.supply.trans h.supply
  phase := k.phase.trans h.phase
  reading := k.reading.trans h.reading

theorem appendByte_sameCapture {b : Byte} {s t : State} (h : appendByte b s = .next t) : SameCapture s t := by
  have frame := appendByte_frame h
  exact ⟨appendByte_servesNone h, by rw [frame], by rw [frame], by rw [frame], by rw [frame]⟩

/-! ### The turns of the sender -/

/-- A capture from an open link, to which the supply delivers a byte before each read, for ever. -/
structure NeverPauses (b : Byte) (s : State) : Prop where
  phase : s.phase = .capturing
  link : s.cfg.linkOk = true
  room : hasRoom s.cfg.rxqDepth 0 = true
  supply : s.supply = .cycle (deliverWord b :: List.replicate (1 + s.cfg.tSettle) stepOneWord)

theorem NeverPauses.of_sameCapture {b : Byte} {s t : State} (h : NeverPauses b s) (same : SameCapture s t) :
    NeverPauses b t where
  phase := same.phase.trans h.phase
  link := same.cfg ▸ h.link
  room := same.cfg ▸ h.room
  supply := same.cfg ▸ same.supply.trans h.supply

/-- Where the sender's repeating supply stands: the settling delay runs, with one STEP left for each of its ticks and the
next DELIVER after the last; or a byte has just been delivered, and the STEPs of its read are left. -/
inductive SenderTurn (b : Byte) (s : State) : Prop where
  | settling (queue : s.rxq = []) (script : s.script = List.replicate s.timer stepOneWord)
  | delivered (queue : s.rxq = [b]) (timer : s.timer = 0)
    (script : s.script = List.replicate (1 + s.cfg.tSettle) stepOneWord)

/-- Everything has stayed as it was in `s` but for the capture, which stands at a turn of the sender. -/
structure StillCaptured (b : Byte) (s t : State) : Prop where
  same : SameCapture s t
  turn : SenderTurn b t

section Sender

variable {s : State} {b : Byte}

/-- With the delay over and the script used up the supply delivers its next byte. -/
theorem step_delivers (sender : NeverPauses b s) (timer : s.timer = 0) (queue : s.rxq = []) (script : s.script = []) :
    ∃ t, step s = .next t ∧ StillCaptured b s t := by
  have due : s.pending = deliverWord b :: List.replicate (1 + s.cfg.tSettle) stepOneWord :=
    pending_of_cycle script sender.supply
  have space : hasRoom s.cfg.rxqDepth s.rxq.length = true := queue ▸ sender.room
  have joined : s.rxq ++ [b] = [b] := by rw [queue, List.nil_append]
  exact ⟨_, (step_of_deliverWord due).trans ((if_pos sender.link).trans (if_pos space)),
    ⟨⟨rfl, fun _ => rfl⟩, rfl, rfl, rfl, rfl⟩, .delivered joined timer rfl⟩

/-- While the delay runs one STEP takes one tick off it. -/
theorem step_settles {n : Nat} (phase : s.phase = .capturing) (timer : s.timer = n + 1) (queue : s.rxq = [])
    (script : s.script = List.replicate (n + 1) stepOneWord) : ∃ t, step s = .next t ∧ StillCaptured b s t := by
  have due : s.pending = stepOneWord :: List.replicate n stepOneWord :=
    pending_of_script (script.trans List.replicate_succ)
  have left : s.timer - 1 = n := by rw [timer, Nat.add_sub_cancel]
  exact ⟨_, (step_of_stepOneWord due).trans (dispatcherStep_of_settle phase timer),
    ⟨⟨rfl, fun _ => rfl⟩, rfl, rfl, rfl, rfl⟩, .settling queue (by rw [sleepTick_timer, left]; rfl)⟩

/-- The STEP after a delivery reads the byte, and the settling delay begins. -/
theorem step_reads (fill : s.length.toNat ≤ 20) (phase : s.phase = .capturing) (queue : s.rxq = [b])
    (timer : s.timer = 0) (script : s.script = List.replicate (1 + s.cfg.tSettle) stepOneWord) :
    ∃ t, step s = .next t ∧ StillCaptured b s t := by
  have due : s.pending = stepOneWord :: List.replicate s.cfg.tSettle stepOneWord := by
    rw [Nat.add_comm] at script
    exact pending_of_script (script.trans List.replicate_succ)
  obtain ⟨u, append⟩ := appendByte_answers
    (s := { s with script := List.replicate s.cfg.tSettle stepOneWord, rxq := [] }) fill b
  have read : step s = .next (counted 0 { u with timer := u.cfg.tSettle }) :=
    (step_of_stepOneWord due).trans (dispatcherStep_of_append phase timer queue append)
  have kept := appendByte_sameCapture append
  have drained : u.rxq = [] := by rw [appendByte_frame append]
  have left : u.script = List.replicate u.cfg.tSettle stepOneWord := by rw [appendByte_frame append]
  exact ⟨_, read, ⟨⟨kept.feq, kept.answers⟩, kept.cfg, kept.supply, kept.phase, kept.reading⟩, .settling drained left⟩

/-- Each turn of the sender is followed by the next one. -/
theorem SenderTurn.step (turn : SenderTurn b s) (sender : NeverPauses b s) (fill : s.length.toNat ≤ 20) :
    ∃ t, step s = .next t ∧ StillCaptured b s t := by
  cases turn with
  | settling queue script =>
    cases timer : s.timer with
    | zero => exact step_delivers sender timer queue (by rw [script, timer, List.replicate_zero])
    | succ n => exact step_settles sender.phase timer queue (timer ▸ script)
  | delivered queue timer script => exact step_reads fill sender.phase queue timer script

/-- The invariant of the endless capture from `s`: every step of the machine meets it again. -/
theorem StillCaptured.step {t : State} (sender : NeverPauses b s) (h : t.Inv ∧ StillCaptured b s t) :
    ∃ u, step t = .next u ∧ u.Inv ∧ StillCaptured b s u := by
  obtain ⟨inv, same, turn⟩ := h
  obtain ⟨u, run, next, turn⟩ := turn.step (sender.of_sameCapture same) inv.fill
  exact ⟨u, run, everyStepKeepsTheInvariants t u inv run, same.trans next, turn⟩

end Sender

/-- Settles O60: what the sender's turns keep (`StillCaptured`) holds at first and after every step, hence after any
number of them. -/
theorem aSenderThatNeverPausesIsCapturedForEver : Obligations.ASenderThatNeverPausesIsCapturedForEver := by
  intro s b n inv phase timer queue script link depth supply
  have sender : NeverPauses b s := ⟨phase, link, (hasRoom_iff _ 0).2 depth, supply⟩
  have first : SenderTurn b s := .settling queue (by rw [script, timer, List.replicate_zero])
  have start : s.Inv ∧ StillCaptured b s s := ⟨inv, .refl s, first⟩
  obtain ⟨t, run, -, same, -⟩ := machineSteps_of_invariant (fun _ => StillCaptured.step sender) n start
  exact ⟨t, run, same.phase.trans phase, same.reading, same.feq, same.answers⟩

end Sys2Proof.Machine
end

section
/-! Settles the obligations about the Reading Cache: the dispatcher writes it only from a whole valid report (O43), and SET
(O28). -/

namespace Sys2Proof.Machine

open Sys2Proof

/-- SET is the cache's write and nothing more (spec/42_cache.md R191). -/
theorem exec_set_eq (v : Reading) (s : State) : exec (.set v) s = .next (setReading v s) := rfl

/-- Settles O28: SET is `setReading`. -/
theorem setWritesTheReading : Obligations.SetWritesTheReading := fun s v => exec_set_eq v s

/-! ### Who writes the reading -/

@[simp] theorem serviceAll_reading (s : State) : (serviceAll s).reading = s.reading := by
  rw [serviceAll, servePorts_frame]

/-- The outcome is VALID for a full buffer under the report's header, and for no other (spec/40_framer.md R132). -/
theorem evalTag_valid_iff (s : State) :
    evalTag s = .valid ↔ s.length.toNat = 20 ∧ headerBits s.buf = 0x16110B0000#40 := by
  constructor
  · intro valid
    have full : s.length.toNat = 20 := by
      by_contra short
      simp [evalTag_incomplete short] at valid
    refine ⟨full, ?_⟩
    by_contra other
    simp [evalTag_headerMismatch full other] at valid
  · rintro ⟨full, hdr⟩
    exact evalTag_valid full hdr

/-- EVALUATE of `s` found a whole report there, and `t` has its reading and its outcome (spec/40_framer.md R132). -/
structure AcceptsReport (s t : State) : Prop where
  full : s.length.toNat = 20
  header : headerBits s.buf = 0x16110B0000#40
  reading : t.reading = frameReading s.buf
  outcome : t.lastOutcome = .tag .valid

/-- EVALUATE keeps the reading, unless the buffer holds a whole report. -/
theorem evaluateFrame_reading {s t : State} (h : evaluateFrame s = .next t) :
    t.reading = s.reading ∨ AcceptsReport s t := by
  obtain ⟨-, ⟨valid, rfl⟩ | ⟨-, rfl⟩⟩ := evaluateFrame_next h
  · obtain ⟨full, header⟩ := (evalTag_valid_iff s).1 valid
    exact .inr ⟨full, header, by rw [acceptReading_eq], by rw [acceptReading_eq]⟩
  · exact .inl rfl

/-- Every move of the dispatcher keeps the reading, unless it is the evaluation of a whole report
(spec/42_cache.md R191). -/
theorem DispatcherMove.reading_cases {s t : State} (h : DispatcherMove s t) :
    t.reading = s.reading ∨ (s.phase = .evaluating ∧ AcceptsReport s t) := by
  cases h with
  | service _ => exact .inl (serviceAll_reading s)
  | pollByte _ _ => exact .inl rfl
  | pollIdle _ _ => exact .inl (serviceAll_reading s)
  | sleep _ => exact .inl rfl
  | @read b rest u _ _ append =>
    have kept : u.reading = s.reading := by rw [appendByte_frame append]
    exact .inl kept
  | endCapture _ _ => exact .inl rfl
  | evaluate sel eval =>
    obtain ⟨phase, -⟩ := (dsel_awake_iff s .evaluating).1 sel
    rcases evaluateFrame_reading eval with kept | accepts
    · exact .inl kept
    · exact .inr ⟨phase, accepts.full, accepts.header, accepts.reading, accepts.outcome⟩

/-- Settles O43: a dispatcher step that changes the reading is the evaluation of a whole report
(`DispatcherMove.reading_cases`), whose header is its five bytes and whose reading is the two after them. -/
theorem readingHasOneWriter : Obligations.ReadingHasOneWriter := by
  intro s t turn h changed
  rw [step_of_dispatcherTurn turn] at h
  rcases (dispatcherStep_move h).reading_cases with kept | ⟨phase, accepts⟩
  · exact absurd kept changed
  · obtain ⟨b0, b1, b2, b3, b4⟩ := (headerBits_eq_iff s.buf).1 accepts.header
    obtain ⟨bigEndian, -⟩ := readingIsBigEndian s.buf
    have value : t.reading.toNat = 256 * (readCell s.buf 5).toNat + (readCell s.buf 6).toNat :=
      (congrArg BitVec.toNat accepts.reading).trans bigEndian
    exact ⟨phase, accepts.full, b0, b1, b2, b3, b4, value, accepts.outcome⟩

end Sys2Proof.Machine
end

section
/-! Settles the obligations about the boundary: POST and DELIVER (O30, O32) and what the moves of the surroundings leave
alone (O34), the answers to the request kinds (O7), and RxRead (O29). -/

namespace Sys2Proof.Machine

open Sys2Proof

/-! ### The moves of the surroundings -/

/-- Settles O32: POST is one post on its port (`postRequest_joins`). -/
theorem postQueuesTheRequest : Obligations.PostQueuesTheRequest :=
  fun _ _ k present room => postRequest_joins present room k

theorem execDeliver_of_room {s : State} (link : s.cfg.linkOk = true)
    (room : hasRoom s.cfg.rxqDepth s.rxq.length = true) (b : Byte) :
    execDeliver b s = .next { s with rxq := s.rxq ++ [b] } := by
  unfold execDeliver
  rw [if_pos link, if_pos room]

/-- Settles O30: the link is open and the queue has room, so neither refusal of DELIVER applies. -/
theorem deliverQueuesTheByte : Obligations.DeliverQueuesTheByte :=
  fun _ b link room => execDeliver_of_room link ((hasRoom_iff _ _).2 room) b

/-- An accepted post changes one request queue, so it leaves every register (spec/43_boundary.md R206). -/
theorem postRequest_frame {p : Nat} {k : Kind} {s t : State} (h : postRequest p k s = .next t) :
    t = { s with rxq := t.rxq, feq := t.feq } := by
  obtain ⟨-, -, rfl⟩ := postRequest_next h
  rfl

/-- An accepted byte changes the receive queue, so it leaves every register (spec/43_boundary.md R201). -/
theorem execDeliver_frame {b : Byte} {s t : State} (h : execDeliver b s = .next t) :
    t = { s with rxq := t.rxq, feq := t.feq } := by
  cases execDeliver_next h
  rfl

/-- Settles O34: DELIVER joins the receive queue (`execDeliver_frame`), and POST and the text commands are each one post
(`postRequest_frame`). -/
theorem boundaryMovesTouchNoRegister : Obligations.BoundaryMovesTouchNoRegister := by
  intro s t i move h
  rcases move with ⟨b, rfl⟩ | ⟨p, k, rfl⟩ | ⟨line, rfl | rfl | rfl⟩
  case inl => exact execDeliver_frame h
  all_goals exact postRequest_frame h

/-! ### The answers to requests -/

/-- A request on a port that exists is given SERVE's one answer (spec/43_boundary.md R207). -/
theorem serveRequest_of_present {s : State} {p : Nat} (present : p < s.feq.length) (k : Kind) :
    serveRequest p k s = .next { s with trace := s.trace ++ portAnswers s.reading p [k] } :=
  (if_pos present).trans (congrArg Host.Outcome.next (serve_eq p k s))

/-- Settles O7: each request instruction is SERVE of its own kind, and HELP alone is answered with no value. -/
theorem requestsAreAnsweredByKind : Obligations.RequestsAreAnsweredByKind := by
  intro s p present
  have served := serveRequest_of_present present
  exact ⟨served .data, served .status, served .help, served .page, served .value⟩

/-! ### RxRead -/

theorem withRxRead_nil {s : State} (h : s.rxq = []) (k : Byte → State → Out) :
    withRxRead s k = .refused .rxReadEmpty := by
  simp [withRxRead, rxRead, h]

/-- Settles O29: by whether a byte waits in the queue. -/
theorem emptyRxReadIsRefused : Obligations.EmptyRxReadIsRefused :=
  fun _ k => ⟨fun empty => withRxRead_nil empty k, fun _ _ waiting => withRxRead_cons waiting k⟩

end Sys2Proof.Machine
end

section
/-! Settles the obligations about where the machine stops: a dispatcher step that the state does not select (O4), a fill
count that is not legal (O18), and the moves of the surroundings where they are not enabled (O31). -/

namespace Sys2Proof.Machine

open Sys2Proof

/-! ### Steps that are not selected -/

theorem whenSelected_of_ne {d : BitVec 3} {s : State} (h : s.dsel ≠ d) (k : Out) :
    whenSelected d s k = .refused .stepNotEnabled := if_neg h

/-- A step for timer 0 is refused outside its phase or during a delay. -/
theorem whenSelected_awake_refused {s : State} {ph : Phase} (disabled : ¬(s.phase = ph ∧ s.timer = 0)) (k : Out) :
    whenSelected (ph.code ++ 0#1) s k = .refused .stepNotEnabled :=
  whenSelected_of_ne (mt (dsel_awake_iff s ph).1 disabled) k

/-- A step for a delay is refused outside its phase or at timer 0. -/
theorem whenSelected_asleep_refused {s : State} {ph : Phase} (disabled : ¬(s.phase = ph ∧ s.timer ≠ 0)) (k : Out) :
    whenSelected (ph.code ++ 1#1) s k = .refused .stepNotEnabled :=
  whenSelected_of_ne (mt (dsel_asleep_iff s ph).1 disabled) k

/-- Settles O4: each step asks for the select of its own phase and timer. -/
theorem disabledStepsAreRefused : Obligations.DisabledStepsAreRefused := by
  intro s
  refine ⟨?service, ?poll, ?sleep, ?read, ?settle, ?eval⟩
  case service => exact fun disabled => whenSelected_awake_refused (ph := .servicing) disabled _
  case poll => exact fun disabled => whenSelected_awake_refused (ph := .waiting) disabled _
  case sleep => exact fun disabled => whenSelected_asleep_refused (ph := .waiting) disabled _
  case read => exact fun disabled => whenSelected_awake_refused (ph := .capturing) disabled _
  case settle => exact fun disabled => whenSelected_asleep_refused (ph := .capturing) disabled _
  case eval => exact fun disabled => whenSelected_awake_refused (ph := .evaluating) disabled _

/-! ### Fill counts that are not legal -/

/-- Settles O18: APPEND and EVALUATE both ask first whether the fill count is legal. -/
theorem illegalFillCountIsStuck : Obligations.IllegalFillCountIsStuck :=
  fun _ b illegal => ⟨appendByte_of_illegal illegal b, execEvaluate_of_illegal illegal⟩

/-! ### Moves that are not enabled -/

theorem hasRoom_of_full {depth : Option Nat} {d n : Nat} (bounded : depth = some d) (full : d ≤ n) :
    hasRoom depth n = false :=
  Bool.eq_false_iff.2 fun room => Nat.not_lt_of_le full ((hasRoom_iff depth n).1 room d bounded)

theorem execDeliver_of_closed {s : State} (closed : s.cfg.linkOk = false) (b : Byte) :
    execDeliver b s = .refused .byteSourceClosed := if_neg (Bool.eq_false_iff.1 closed)

theorem execDeliver_of_full {s : State} (link : s.cfg.linkOk = true)
    (full : hasRoom s.cfg.rxqDepth s.rxq.length = false) (b : Byte) : execDeliver b s = .refused .rxqFull :=
  (if_pos link).trans (if_neg (Bool.eq_false_iff.1 full))

theorem postRequest_of_full {s : State} {p : Nat} (present : p < s.feq.length)
    (full : hasRoom s.cfg.feqDepth (s.queue p).length = false) (k : Kind) :
    postRequest p k s = .refused .feqFull :=
  (if_pos present).trans (if_neg (Bool.eq_false_iff.1 full))

/-- Settles O31: DELIVER needs an open link and room in the byte queue, and POST and the text commands, each one post on
its port, need room in that port's queue. -/
theorem movesAreRefusedWhenNotEnabled : Obligations.MovesAreRefusedWhenNotEnabled := by
  intro s b
  refine ⟨?closed, ?deliver, ?post, ?text⟩
  case closed =>
    intro closed
    exact execDeliver_of_closed closed b
  case deliver =>
    intro link d bounded full
    exact execDeliver_of_full link (hasRoom_of_full bounded full) b
  case post =>
    intro p k d present bounded full
    exact postRequest_of_full present (hasRoom_of_full bounded full) k
  case text =>
    intro line d present bounded full
    have refused : ∀ k, postRequest s.cfg.textPort k s = .refused .feqFull :=
      postRequest_of_full present (hasRoom_of_full bounded full)
    exact ⟨refused .data, refused .status, refused .help⟩

end Sys2Proof.Machine
end
